-- ==== Sys2Proof/Word.lean ====
section
/-! DEFINITION. The word types of the Philox engine and its two lane lists (spec/00_scope.md R6, R11; spec/10_state.md R15, R16). -/

namespace Sys2Proof

/-- A lane: an unsigned 32-bit value (R6). -/
abbrev Word := BitVec 32

/-- A 64-bit operand: seed, subsequence, offset or index (R48). -/
abbrev DWord := BitVec 64

/-- One byte of the stored form of a word (R33). -/
abbrev Byte := BitVec 8

/-- The working form of a counter as one number (R12, `val128`). -/
abbrev QWord := BitVec 128

/-- A command word: exactly 264 bits (R45). -/
abbrev CommandWord := BitVec 264

/-- A response word: exactly 128 bits (R56). -/
abbrev ResponseWord := BitVec 128

/-- A lane list of four lanes, lane 0 first: a counter value or an output batch (R11, R15, R17). -/
structure Lanes4 where
  l0 : Word
  l1 : Word
  l2 : Word
  l3 : Word
deriving DecidableEq, Repr

/-- A lane list of two lanes, lane 0 first: a key value (R16). -/
structure Lanes2 where
  l0 : Word
  l1 : Word
deriving DecidableEq, Repr

end Sys2Proof
end

