-- ==== Sys2Proof/Machine/Arith.lean ====
section
/-! DEFINITION. The arithmetic primitives (spec/40_arith_primitives.md R63 to R69) and the pseudocode primitives over values
(spec/00_scope.md R11, R12). Pure functions: they read no state and write none (R69). -/

namespace Sys2Proof.Machine

/-- `lo32(v) = v[31:0]` (R63). -/
def lo32 (v : DWord) : Word := v.extractLsb' 0 32

/-- `hi32(v) = v[63:32]` (R64). -/
def hi32 (v : DWord) : Word := v.extractLsb' 32 32

/-- The 64-bit number with the given halves: `hi*2^32 + lo` (R64: `v = hi32(v)*2^32 + lo32(v)`). -/
def join64 (hi lo : Word) : DWord := hi ++ lo

/-- `mulhilo(a, b)`, the split multiply (R65): the exact 64-bit product of two 32-bit values as (high half, low half). The
ports are 32 bits wide (R66). -/
def mulhilo (a b : Word) : Word × Word :=
  let p : DWord := a.setWidth 64 * b.setWidth 64
  (hi32 p, lo32 p)

/-- `val128(c)` (R12, R15, R31): the 128-bit value of a four-lane list, lane 0 in the low bits. -/
def val128 (c : Lanes4) : QWord := c.l3 ++ c.l2 ++ c.l1 ++ c.l0

/-- `lanes128(v)` (R12): the inverse of `val128`. -/
def lanes128 (v : QWord) : Lanes4 :=
  ⟨v.extractLsb' 0 32, v.extractLsb' 32 32, v.extractLsb' 64 32, v.extractLsb' 96 32⟩

/-- `zext_128(off)` of a 64-bit operand (R80). -/
def zext128 (v : DWord) : QWord := v.setWidth 128

/-- Lane `i` of a four-lane list: `BUF[POS]`, `x[l]` (R12, R91, R102). -/
def laneAt (c : Lanes4) (i : BitVec 2) : Word :=
  if i = 0 then c.l0 else if i = 1 then c.l1 else if i = 2 then c.l2 else c.l3

end Sys2Proof.Machine
end

