-- ==== Sys2Proof/Machine/Counter.lean ====
section
/-! DEFINITION. The operations that move a counter value (spec/42_counter_ops.md R78 to R86) and the two helpers of construction
(spec/43_stateful_commands.md R87, R88). All are additions modulo 2^128 (R85); their lane forms are in Flags.lean. -/

namespace Sys2Proof.Machine

/-- `inc(c)` (R78): `lanes128(val128(c) +_128 1)`. -/
def inc (c : Lanes4) : Lanes4 := lanes128 (val128 c + 1)

/-- `skip(c, off)` (R80): `lanes128(val128(c) +_128 zext_128(off))`. -/
def skip (c : Lanes4) (off : DWord) : Lanes4 := lanes128 (val128 c + zext128 off)

/-- `skipsub(c, sub)` (R81): the 64-bit number in lanes 3:2 plus `sub` modulo 2^64; lanes 0 and 1 untouched. -/
def skipsub (c : Lanes4) (sub : DWord) : Lanes4 :=
  let v := join64 c.l3 c.l2 + sub
  ⟨c.l0, c.l1, lo32 v, hi32 v⟩

/-- The zero counter. -/
def zeroCounter : Lanes4 := ⟨0, 0, 0, 0⟩

/-- `initctr(sub, off)` (R87): the subsequence skip, then the offset skip, from the zero counter. -/
def initctr (sub off : DWord) : Lanes4 := skip (skipsub zeroCounter sub) off

/-- `initkey(seed)` (R88): the low half is lane 0, the high half lane 1. -/
def initkey (seed : DWord) : Lanes2 := ⟨lo32 seed, hi32 seed⟩

end Sys2Proof.Machine
end

