-- ==== Sys2Proof/Config.lean ====
section
/-! DEFINITION. The configuration record of an instance (spec/00_scope.md R5 to R10), the build-time check of a parameter
set (spec/60_exceptions.md R107), the default parameters, and the free values the model uses. -/

namespace Sys2Proof

/-- `VARIANT` (R9): the single-output engine or the vector-output engine; fixed when the block is instantiated. -/
inductive Variant where
  | single
  | vector
deriving DecidableEq, Repr

/-- The engine of the other variant. -/
def Variant.other : Variant → Variant
  | .single => .vector
  | .vector => .single

/-- The parameters that differ between instantiations (R10). `N = 4` and `W = 32` are the same in all of them
(`Config.counterSize`, `Config.laneWidth`) and are built into the types of Word.lean. -/
structure Config where
  /-- `VARIANT` (R9). -/
  variant : Variant
  /-- `R`, the round count, a positive natural (R7). -/
  rounds : Nat
  /-- `MULT0` (R8): multiplies lane 0. -/
  mult0 : Word
  /-- `MULT1` (R8): multiplies lane 2. -/
  mult1 : Word
  /-- `WEYL0` (R8): the Weyl delta of key lane 0. -/
  weyl0 : Word
  /-- `WEYL1` (R8): the Weyl delta of key lane 1. -/
  weyl1 : Word
deriving DecidableEq, Repr

/-- `N`: four counter lanes (R5). -/
def Config.counterSize : Nat := 4

/-- `W`: 32-bit lanes (R6). -/
def Config.laneWidth : Nat := 32

/-- The source's static checks on a parameter set (R107): an even counter size from 2 to 16, a width that is a multiple of
8 and is 32, and at least one round. -/
def Config.sourceAdmits (n w r : Nat) : Bool :=
  n % 2 == 0 && 2 ≤ n && n ≤ 16 && w % 8 == 0 && w == 32 && 0 < r

/-- Building an instance from a parameter set (R107): a set that this hardware does not have is a build-time failure, so no
`Config` comes of it. -/
def Config.build (n w r : Nat) (mult0 mult1 weyl0 weyl1 : Word) (variant : Variant) : Option Config :=
  if n = Config.counterSize ∧ w = Config.laneWidth ∧ 0 < r then
    some { variant := variant, rounds := r, mult0 := mult0, mult1 := mult1, weyl0 := weyl0, weyl1 := weyl1 }
  else none

/-- Well-formedness of a configuration record (R7, R107): `R > 0`. -/
def Config.wf (cfg : Config) : Bool := 0 < cfg.rounds

/-- Both multipliers are odd: the named property that a claim of bijectivity assumes (R71). -/
def Config.oddMultipliers (cfg : Config) : Bool := cfg.mult0.getLsbD 0 && cfg.mult1.getLsbD 0

/-- The default parameters of R10. The numbers are marked in the spec as general knowledge, not in its source
(93_implementation_defined.md G1, G2). PRESUMED, unsafe for a claim that names them: log entry 3. -/
def Config.default (variant : Variant) : Config where
  variant := variant
  rounds := 10
  mult0 := 0xD2511F53#32
  mult1 := 0xCD9E8D57#32
  weyl0 := 0x9E3779B9#32
  weyl1 := 0xBB67AE85#32

/-- FREE VALUE. What the register lanes hold from reset until the first `INIT` (R29: "unspecified (holds no value)", "it must
not pick zero"): lanes 0 to 3 of `CTR` are 0 to 3 here, of `KEY` 4 and 5, of `BUF` 6 to 9. DESIGN CHOICE, log entry 1. -/
opaque Config.powerOnLane : Nat → Word

/-- FREE VALUE. What the cursor `POS` of a `SINGLE` instance holds from reset until the first `INIT` (R29). DESIGN CHOICE,
log entry 1. -/
opaque Config.powerOnPos : BitVec 2

end Sys2Proof
end

