-- ==== Sys2Proof/Machine/Round.lean ====
section
/-! DEFINITION. The permutation round, the key bump and the R-round engine (spec/41_round_engine.md R70 to R77). Pure functions of
their arguments and the configuration (R76). -/

namespace Sys2Proof.Machine

/-- `round(c, k)` (R70): the high half of the lane-2 product goes to lane 0 and its low half to lane 1, the high half of
the lane-0 product to lane 2 and its low half to lane 3. -/
def round (cfg : Config) (c : Lanes4) (k : Lanes2) : Lanes4 :=
  let p0 := mulhilo c.l0 cfg.mult0
  let p1 := mulhilo c.l2 cfg.mult1
  ⟨p1.1 ^^^ c.l1 ^^^ k.l0, p1.2, p0.1 ^^^ c.l3 ^^^ k.l1, p0.2⟩

/-- `bumpkey(k)` (R72): each lane plus its Weyl constant modulo 2^32, no carry between the lanes. -/
def bumpkey (cfg : Config) (k : Lanes2) : Lanes2 := ⟨k.l0 + cfg.weyl0, k.l1 + cfg.weyl1⟩

/-- The loop of R73: `n` times bump the key copy, then apply a round with it. The last key is discarded (R74). -/
def bumpedRounds (cfg : Config) : Nat → Lanes4 → Lanes2 → Lanes4
  | 0, x, _ => x
  | n + 1, x, y => bumpedRounds cfg n (round cfg x (bumpkey cfg y)) (bumpkey cfg y)

/-- `philox(c, k)` (R73): one round with the original key, then `R-1` bumped rounds. `R > 0` in every configuration that
exists (`Config.wf`, R107). -/
def philox (cfg : Config) (c : Lanes4) (k : Lanes2) : Lanes4 :=
  bumpedRounds cfg (cfg.rounds - 1) (round cfg c k) k

end Sys2Proof.Machine
end

