-- ==== Sys2Proof/Machine/Operands.lean ====
section
/-! DEFINITION. Operand assembly: how the slots of a command word make the operands (spec/30_encoding.md R48, R49;
spec/20_memory.md R32), and the inverse the encoder uses. A 64-bit operand is its slot as it stands (R48), so only `PERM` and
the index of `GENS` need a function. There are no addressing modes (R36). -/

namespace Sys2Proof.Machine

/-- The counter of `PERM` from slots `A` and `B`, low lane in the low half (R49). -/
def counterOfSlots (a b : DWord) : Lanes4 := ⟨lo32 a, hi32 a, lo32 b, hi32 b⟩

/-- The key of `PERM` from slot `C` (R49). -/
def keyOfSlot (c : DWord) : Lanes2 := ⟨lo32 c, hi32 c⟩

/-- Slot `A` of `PERM`: `c[0] + c[1]*2^32` (R49, R100). -/
def slotAOfCounter (c : Lanes4) : DWord := join64 c.l1 c.l0

/-- Slot `B` of `PERM`: `c[2] + c[3]*2^32` (R49, R100). -/
def slotBOfCounter (c : Lanes4) : DWord := join64 c.l3 c.l2

/-- Slot `C` of `PERM`: `k[0] + k[1]*2^32` (R49, R100). -/
def slotCOfKey (k : Lanes2) : DWord := join64 k.l1 k.l0

/-- `index div 4` (R102): which vector of the stream, `index[63:2]`. -/
def vectorOfIndex (index : DWord) : DWord := index >>> 2

/-- `index mod 4` (R102): which lane of that vector, `index[1:0]`. -/
def laneOfIndex (index : DWord) : BitVec 2 := index.extractLsb' 0 2

end Sys2Proof.Machine
end

