-- ==== Sys2Proof/Syntax.lean ====
section
/-! DEFINITION. The commands of the engine, one constructor per row of spec/opcode_table.json (spec/30_encoding.md R47, R60). -/

namespace Sys2Proof

/-- A command (R3: "what this spec calls an instruction is a command that the execution environment presents"). Operands
are typed at the width the spec gives them, and every value of every operand is legal (R48, R49). -/
inductive Instr where
  /-- `INIT seed, subseq, offset` (R89): construct the generator. -/
  | init (seed subseq offset : DWord)
  /-- `SKIP offset` (R92): reposition forward by `offset` output vectors. -/
  | skip (offset : DWord)
  /-- `NEXTS` (R91): the next scalar output, `SINGLE` instances only. -/
  | nexts
  /-- `NEXTV` (R90): the next output vector, `VECTOR` instances only. -/
  | nextv
  /-- `PERM c0, c1, c2, c3, k0, k1` (R100): the permutation of an explicit counter under an explicit key. -/
  | perm (c : Lanes4) (k : Lanes2)
  /-- `GENV seed, subseq, offset, index` (R101): the output vector at a logical index. -/
  | genv (seed subseq offset index : DWord)
  /-- `GENS seed, subseq, offset, index` (R102): the scalar output at a logical index. -/
  | gens (seed subseq offset index : DWord)
deriving DecidableEq, Repr

end Sys2Proof
end

