-- ==== Sys2Proof/WellFormed.lean ====
section
/-! DEFINITION. Which commands an instance of a variant accepts (spec/00_scope.md R9, spec/30_encoding.md R47, R52). The widths of
the operands are in the types of Syntax.lean, so the variant is the only check. -/

namespace Sys2Proof

/-- An instance of variant `v` accepts the command: `NEXTS` only on `SINGLE`, `NEXTV` only on `VECTOR`, the other five on
both (R9, R52). -/
def Instr.wellFormed (v : Variant) : Instr → Bool
  | .init _ _ _ => true
  | .skip _ => true
  | .nexts => v == .single
  | .nextv => v == .vector
  | .perm _ _ => true
  | .genv _ _ _ _ => true
  | .gens _ _ _ _ => true

end Sys2Proof
end

