-- ==== Sys2Proof/Decode.lean ====
section
/-! DEFINITION. The decoder, total on every 264-bit word and on any bytes, and after it the encoder (spec/30_encoding.md R46 to R55,
R59; spec/20_memory.md R33). -/

namespace Sys2Proof

open Sys2Proof.Machine

/-- Why a word is reserved (R51), or why bytes hold no whole word (R34). -/
inductive DecodeError where
  /-- R51 (a): `OPC` is not one of the seven assigned values. -/
  | unassignedOpcode (opc : BitVec 8)
  /-- R51 (b): `OPC` is known and an unused slot is not zero (R50). -/
  | unusedSlotNotZero
  /-- R51 (c): `NEXTS` on a `VECTOR` instance or `NEXTV` on a `SINGLE` instance (R52). -/
  | wrongVariant
  /-- Fewer than 33 bytes: "a command word is accepted whole or not at all" (R34, R59). -/
  | truncated
deriving DecidableEq, Repr

/-- The fields of the one command format (R46). -/
structure Fields where
  opc : BitVec 8
  d : DWord
  c : DWord
  b : DWord
  a : DWord
deriving DecidableEq, Repr

/-- `OPC = w[263:256]`, `D = w[255:192]`, `C = w[191:128]`, `B = w[127:64]`, `A = w[63:0]` (R46). -/
def fieldsOf (w : CommandWord) : Fields where
  opc := w.extractLsb' 256 8
  d := w.extractLsb' 192 64
  c := w.extractLsb' 128 64
  b := w.extractLsb' 64 64
  a := w.extractLsb' 0 64

/-- The word with the given fields (R46). -/
def packFields (f : Fields) : CommandWord := f.opc ++ f.d ++ f.c ++ f.b ++ f.a

/-- The decoder over fields: R55, case by case, each rejection by its name. -/
def decodeFields (v : Variant) (f : Fields) : Except DecodeError Instr :=
  if f.opc = 0x01#8 then
    if f.d = 0#64 then .ok (.init f.a f.b f.c) else .error .unusedSlotNotZero
  else if f.opc = 0x02#8 then
    if f.b = 0#64 ∧ f.c = 0#64 ∧ f.d = 0#64 then .ok (.skip f.a) else .error .unusedSlotNotZero
  else if f.opc = 0x03#8 then
    if f.a = 0#64 ∧ f.b = 0#64 ∧ f.c = 0#64 ∧ f.d = 0#64 then
      if v = .single then .ok .nexts else .error .wrongVariant
    else .error .unusedSlotNotZero
  else if f.opc = 0x04#8 then
    if f.a = 0#64 ∧ f.b = 0#64 ∧ f.c = 0#64 ∧ f.d = 0#64 then
      if v = .vector then .ok .nextv else .error .wrongVariant
    else .error .unusedSlotNotZero
  else if f.opc = 0x10#8 then
    if f.d = 0#64 then .ok (.perm (counterOfSlots f.a f.b) (keyOfSlot f.c)) else .error .unusedSlotNotZero
  else if f.opc = 0x11#8 then .ok (.genv f.a f.b f.c f.d)
  else if f.opc = 0x12#8 then .ok (.gens f.a f.b f.c f.d)
  else .error (.unassignedOpcode f.opc)

/-- `decode(VARIANT, w)` (R55). -/
def decode (v : Variant) (w : CommandWord) : Except DecodeError Instr := decodeFields v (fieldsOf w)

/-- The fields of a command (R47 to R50): unused slots are zero. -/
def encodeFields : Instr → Fields
  | .init seed subseq offset => ⟨0x01#8, 0#64, offset, subseq, seed⟩
  | .skip offset => ⟨0x02#8, 0#64, 0#64, 0#64, offset⟩
  | .nexts => ⟨0x03#8, 0#64, 0#64, 0#64, 0#64⟩
  | .nextv => ⟨0x04#8, 0#64, 0#64, 0#64, 0#64⟩
  | .perm c k => ⟨0x10#8, 0#64, slotCOfKey k, slotBOfCounter c, slotAOfCounter c⟩
  | .genv seed subseq offset index => ⟨0x11#8, index, offset, subseq, seed⟩
  | .gens seed subseq offset index => ⟨0x12#8, index, offset, subseq, seed⟩

/-- `encode`, "the evident inverse on the seven commands" (R55). -/
def encode (i : Instr) : CommandWord := packFields (encodeFields i)

/-! ### The stored form (R33, R59) -/

/-- The first `n` bytes of a word, least significant first: byte `j` is bits `8j+7 : 8j` (R33). -/
def storedBytes {m : Nat} (n : Nat) (w : BitVec m) : List Byte :=
  (List.range n).map fun j => w.extractLsb' (8 * j) 8

/-- A command word as 33 bytes (R59). -/
def commandBytes (w : CommandWord) : List Byte := storedBytes 33 w

/-- A response word as 16 bytes (R59). -/
def responseBytes (r : ResponseWord) : List Byte := storedBytes 16 r

/-- The number that bytes spell, first byte least significant (R33). -/
def littleEndian : List Byte → Nat
  | [] => 0
  | b :: bs => b.toNat + 256 * littleEndian bs

/-- Decoding from a byte stream: the command that the first 33 bytes store, and the rest of the stream (R59, R34). -/
def decodeBytes (v : Variant) (bytes : List Byte) : Except DecodeError (Instr × List Byte) :=
  if bytes.length < 33 then .error .truncated
  else
    match decode v (BitVec.ofNat 264 (littleEndian (bytes.take 33))) with
    | .ok i => .ok (i, bytes.drop 33)
    | .error e => .error e

/-! ### The host's numbering of a table row's word -/

/-- The command word that a row of `nbits` bits numbered `w` stands for; bits above `nbits` are zero. -/
def tableWord (nbits w : Nat) : CommandWord := BitVec.ofNat 264 (w % 2 ^ nbits)

/-- The variant of an instance to which the host presents the word: `v` itself, unless the word is a command of the other
variant only (R52). Log entry 5. -/
def presentingVariant (v : Variant) (w : CommandWord) : Variant :=
  match decode v w, decode v.other w with
  | .ok _, _ => v
  | .error _, .ok _ => v.other
  | .error _, .error _ => v

/-- The command the decoder reads from a table row's word, on an instance of a variant that accepts it: the table gives the
rows of both variants (R47), and the two decoders agree on every word both accept (R52). -/
def decodeTableWord (nbits w : Nat) : Option Instr :=
  match decode (presentingVariant .single (tableWord nbits w)) (tableWord nbits w) with
  | .ok i => some i
  | .error _ => none

end Sys2Proof
end

