-- ==== Sys2Proof/Machine/State.lean ====
section
/-! DEFINITION. The state of one instance as plain data (spec/10_state.md R15 to R30), the reasons a step can stop
(spec/60_exceptions.md R106, R110), and the state after reset (R29, spec/70_reset_and_hazards.md R122). -/

namespace Sys2Proof.Machine

/-- The faults of the machine: none. "The engine raises no synchronous exception ... Table of exception causes: empty"
(R106); arithmetic never faults (R108) and there is nothing to interrupt it (R111). Safe: no step answers a fault. -/
inductive Fault where
deriving DecidableEq, Repr

/-- The two situations to which the spec gives no meaning (R110), and the host's marker for an instruction without one. -/
inductive Refusal where
  /-- No meaning is written for the instruction: raised by an arm of `exec` only, and by none today. Safe. -/
  | notModelled (mnemonic : String)
  /-- A reserved command word (R51, U1): raised by `step` on a word the decoder rejects, and by `NEXTS` and `NEXTV` on an
  instance of the other variant (R52). "A model treats it as refuse". Safe: nothing is proved about the run. -/
  | reserved (why : DecodeError)
  /-- `NEXTV`, `NEXTS` or `SKIP` while `INITED = 0` (R97, U2): raised by those three. "A model treats ... as refuse". Safe. -/
  | notInitialised
deriving DecidableEq, Repr

/-- What the host sends an instance (R138): the reset input (R122), or a command word on the command channel (R45). -/
inductive HostEvent where
  | reset
  | word (w : CommandWord)
deriving DecidableEq, Repr

/-- One instance (R30): its configuration, which no step changes (R22), its registers, and its two channels. There is no
program counter (R26), no memory (R27), no flag register (R24), no mode (R116) and no interrupt state (R111). -/
structure State where
  /-- `R`, the four constants and `VARIANT` (R10): fixed for the instance, carried here so that one machine covers every
  instantiation. -/
  cfg : Config
  /-- `CTR` (R15). -/
  ctr : Lanes4
  /-- `KEY` (R16). -/
  key : Lanes2
  /-- `BUF` (R17): the batch the next output command returns. -/
  buf : Lanes4
  /-- `POS` (R18): the lane cursor of a `SINGLE` instance. A `VECTOR` instance has no cursor: no command it accepts reads
  or writes this field. -/
  pos : BitVec 2
  /-- `INITED` (R19): the registers hold values. -/
  inited : Bool
  /-- What the host has presented and the instance has not taken yet, oldest first (R39, R45, R138). -/
  inputs : List HostEvent
  /-- The response channel (R56): the response words placed on it since reset, oldest first. -/
  responses : List ResponseWord
deriving DecidableEq, Repr

/-- An instance of the given configuration right after reset (R29, R122): `INITED = 0`, no response pending, nothing
presented, the configuration as it was. `CTR`, `KEY`, `BUF` and `POS` hold no value the spec names, so they hold free
values (log entry 1); the field of the cursor that a `VECTOR` instance does not have holds 0. -/
def State.resetWith (cfg : Config) : State where
  cfg := cfg
  ctr := ⟨Config.powerOnLane 0, Config.powerOnLane 1, Config.powerOnLane 2, Config.powerOnLane 3⟩
  key := ⟨Config.powerOnLane 4, Config.powerOnLane 5⟩
  buf := ⟨Config.powerOnLane 6, Config.powerOnLane 7, Config.powerOnLane 8, Config.powerOnLane 9⟩
  pos := if cfg.variant = .single then Config.powerOnPos else 0
  inited := false
  inputs := []
  responses := []

/-- The machine right after reset: a `SINGLE` instance with the default parameters of R10 (log entries 3 and 4). -/
def State.reset : State := State.resetWith (Config.default .single)

end Sys2Proof.Machine
end

