-- ==== Sys2Proof/Machine/Ops.lean ====
section
/-! DEFINITION. The named operations over the state: register writes, the prefetch, the response channel, the two guards, and
taking an input (spec/00_scope.md R12; spec/10_state.md R15 to R21; spec/30_encoding.md R45, R56 to R58). There is no exception
entry and no return from one to write here: "No state is saved, no mode changes, no vector is taken" (spec/60_exceptions.md R113,
R114). -/

namespace Sys2Proof.Machine

/-- `CTR <- c` (R12, R15). -/
def State.setCtr (s : State) (c : Lanes4) : State := { s with ctr := c }

/-- `KEY <- k` (R12, R16). -/
def State.setKey (s : State) (k : Lanes2) : State := { s with key := k }

/-- `POS <- p` (R12, R18). -/
def State.setPos (s : State) (p : BitVec 2) : State := { s with pos := p }

/-- `POS <- 0 ; SINGLE instances only` (R89). -/
def State.clearPos (s : State) : State := if s.cfg.variant = .single then s.setPos 0 else s

/-- `INITED <- 1` (R19, R89). -/
def State.markInited (s : State) : State := { s with inited := true }

/-- `BUF <- philox(CTR, KEY)`: the prefetch (R20, R89 to R92). -/
def State.refill (s : State) : State := { s with buf := philox s.cfg s.ctr s.key }

/-- `CTR <- inc(CTR); BUF <- philox(CTR, KEY)`: the advance of R90 and R91. -/
def State.advance (s : State) : State := (s.setCtr (inc s.ctr)).refill

/-- One response word placed on the response channel, after those already there (R56). -/
def State.respond (s : State) (r : ResponseWord) : State := { s with responses := s.responses ++ [r] }

/-- The response word of a batch: `val128(batch)`, lane 0 in bits 31:0 (R57). -/
def batchResponse (b : Lanes4) : ResponseWord := val128 b

/-- The response word of a single lane: `zext_128(lane)` (R57). -/
def laneResponse (x : Word) : ResponseWord := x.setWidth 128

/-- `respond(v)` with `v` a four-lane list (R58). -/
def State.respondBatch (s : State) (b : Lanes4) : State := s.respond (batchResponse b)

/-- `respond(v)` with `v` a single 32-bit value (R58). -/
def State.respondLane (s : State) (x : Word) : State := s.respond (laneResponse x)

/-- The guard of a command that reads the registers: refused while `INITED = 0` (R97). -/
def whenInited (s : State) (run : State → Host.Outcome State Fault Refusal) : Host.Outcome State Fault Refusal :=
  if s.inited = true then run s else .refused .notInitialised

/-- The guard of a command of one variant: on the other variant its word is reserved (R51, R52). -/
def whenVariant (v : Variant) (s : State) (run : State → Host.Outcome State Fault Refusal) :
    Host.Outcome State Fault Refusal :=
  if s.cfg.variant = v then run s else .refused (.reserved .wrongVariant)

/-- What the instance takes next (R45, R122, R124). -/
inductive Taken where
  /-- Nothing is presented: "the engine waits for its first command word" (R124); every later wait alike, DEDUCED, log entry 7. -/
  | waiting
  /-- The reset input, and the state it leaves. -/
  | reset (s : State)
  /-- A command, and the state with its word taken off the channel. -/
  | command (i : Instr) (s : State)
  /-- A reserved word (R51). -/
  | reserved (why : DecodeError)
deriving DecidableEq, Repr

/-- The state after the reset input (R122): the reset state of the same configuration; what the host presents after the
reset is still to come (DEDUCED, log entry 6). -/
def State.afterReset (s : State) (later : List HostEvent) : State :=
  { State.resetWith s.cfg with inputs := later }

/-- Taking the oldest input: one whole word, decoded for the variant (R34, R39, R45, R55). -/
def State.take (s : State) : Taken :=
  match s.inputs with
  | [] => .waiting
  | .reset :: later => .reset (s.afterReset later)
  | .word w :: later =>
    match decode s.cfg.variant w with
    | .ok i => .command i { s with inputs := later }
    | .error why => .reserved why

/-- The host presents a word that is taken before anything presented earlier, to an instance of a variant that accepts
it (log entry 5). -/
def State.presentFirst (s : State) (w : CommandWord) : State :=
  { s with cfg := { s.cfg with variant := presentingVariant s.cfg.variant w }, inputs := .word w :: s.inputs }

/-- The host presents command words, after those presented earlier (R39, R45). -/
def State.present (s : State) (ws : List CommandWord) : State :=
  { s with inputs := s.inputs ++ ws.map HostEvent.word }

end Sys2Proof.Machine
end

