-- ==== Sys2Proof/Machine/Stateful.lean ====
section
/-! DEFINITION. The stateful commands `INIT`, `SKIP`, `NEXTS`, `NEXTV` (spec/43_stateful_commands.md R89 to R98). A command is one
atomic transition (spec/20_memory.md R40). -/

namespace Sys2Proof.Machine

/-- `INIT seed, subseq, offset` (R89): accepted by both variants in any state (R98); no response. -/
def execInit (seed subseq offset : DWord) (s : State) : Host.Outcome State Fault Refusal :=
  .next ((((s.setKey (initkey seed)).setCtr (initctr subseq offset)).refill.clearPos).markInited)

/-- `SKIP offset` (R92): the buffered batch follows the counter; `POS` and `KEY` unchanged; no response. -/
def execSkip (offset : DWord) (s : State) : Host.Outcome State Fault Refusal :=
  whenInited s fun s => .next (s.setCtr (skip s.ctr offset)).refill

/-- `NEXTS` (R91): the lane under the cursor; the call that returns lane 3 advances the counter and refills the buffer. -/
def execNexts (s : State) : Host.Outcome State Fault Refusal :=
  whenVariant .single s fun s => whenInited s fun s =>
    let s' := if s.pos = 3 then s.advance.setPos 0 else s.setPos (s.pos + 1)
    .next (s'.respondLane (laneAt s.buf s.pos))

/-- `NEXTV` (R90): the batch computed by the previous command; then the advance. -/
def execNextv (s : State) : Host.Outcome State Fault Refusal :=
  whenVariant .vector s fun s => whenInited s fun s => .next (s.advance.respondBatch s.buf)

end Sys2Proof.Machine
end

