-- ==== Sys2Proof/Machine/Stateless.lean ====
section
/-! DEFINITION. The stateless commands `PERM`, `GENV`, `GENS` (spec/44_stateless_commands.md R100 to R105): they read the
configuration and their operands, and write nothing but the response channel (R103). -/

namespace Sys2Proof.Machine

/-- The batch `GENV` and `GENS` compute: vector number `j` of the stream of `(seed, subseq, offset)` (R101, R102). -/
def generatedBatch (cfg : Config) (seed subseq offset j : DWord) : Lanes4 :=
  philox cfg (skip (initctr subseq offset) j) (initkey seed)

/-- `PERM c0, c1, c2, c3, k0, k1` (R100). -/
def execPerm (c : Lanes4) (k : Lanes2) (s : State) : Host.Outcome State Fault Refusal :=
  .next (s.respondBatch (philox s.cfg c k))

/-- `GENV seed, subseq, offset, index` (R101): `index` counts vectors. -/
def execGenv (seed subseq offset index : DWord) (s : State) : Host.Outcome State Fault Refusal :=
  .next (s.respondBatch (generatedBatch s.cfg seed subseq offset index))

/-- `GENS seed, subseq, offset, index` (R102): `index` counts scalars, four to a vector in lane order. -/
def execGens (seed subseq offset index : DWord) (s : State) : Host.Outcome State Fault Refusal :=
  .next (s.respondLane (laneAt (generatedBatch s.cfg seed subseq offset (vectorOfIndex index)) (laneOfIndex index)))

end Sys2Proof.Machine
end

