-- ==== Sys2Proof/Machine/Dispatch.lean ====
section
/-! DEFINITION. The dispatch: one arm per command (spec/30_encoding.md R47, R62). -/

namespace Sys2Proof.Machine

def exec (i : Instr) (s : State) : Host.Outcome State Fault Refusal :=
  match i with
  | .init seed subseq offset => Sys2Proof.Machine.execInit seed subseq offset s
  | .skip offset => Sys2Proof.Machine.execSkip offset s
  | .nexts => Sys2Proof.Machine.execNexts s
  | .nextv => Sys2Proof.Machine.execNextv s
  | .perm c k => Sys2Proof.Machine.execPerm c k s
  | .genv seed subseq offset index => Sys2Proof.Machine.execGenv seed subseq offset index s
  | .gens seed subseq offset index => Sys2Proof.Machine.execGens seed subseq offset index s

end Sys2Proof.Machine
end

