-- ==== Sys2Proof/Machine/Step.lean ====
section
/-! DEFINITION. One step of an instance: it takes the oldest input and completes it (spec/20_memory.md R39, R40; spec/30_encoding.md
R45), and the host's way of presenting one word. -/

namespace Sys2Proof.Machine

/-- One step. With nothing presented the instance waits (R124); the reset input takes effect between commands (R122); a
command word is executed as one atomic transition (R40); a reserved word is refused (R51). -/
def step (s : State) : Host.Outcome State Fault Refusal :=
  match s.take with
  | .waiting => .next s
  | .reset s' => .next s'
  | .command i s' => exec i s'
  | .reserved why => .refused (.reserved why)

/-- `s` with the table row's word presented so that the very next step takes it, on an instance of a variant that accepts
the word: an engine fetches nothing (R26), so its program is what the host presents (log entry 5). -/
def State.withFetchWord (s : State) (nbits w : Nat) : State := s.presentFirst (tableWord nbits w)

end Sys2Proof.Machine
end

