-- ==== Sys2Proof/Machine/Assembler.lean ====
section
/-! DEFINITION. The textual form of commands (spec/30_encoding.md R60, R61): one command a line, its mnemonic in capitals, operands
separated by commas, each an unsigned number in decimal or in 0x hexadecimal, a semicolon starting a comment; and the
pseudo-instructions. A line is a list of characters. -/

namespace Sys2Proof.Machine

/-- What is wrong with a line. "An operand that does not fit its width is an assembler error, not a command" (R60). R60 knows
one assembler error; the four kinds are the model's. DESIGN CHOICE, log entry 13. -/
inductive AsmError where
  | unknownMnemonic
  | wrongOperandCount
  | notANumber
  | operandTooWide
deriving DecidableEq, Repr

/-- A blank character between the parts of a line. -/
def isBlank (ch : Char) : Bool := ch == ' ' || ch == '\t'

/-- The characters without blanks at either end. -/
def trimBlanks (cs : List Char) : List Char :=
  (((cs.dropWhile isBlank).reverse).dropWhile isBlank).reverse

/-- The pieces of a text between commas; there is always one more piece than commas. -/
def splitAtCommas : List Char → List (List Char)
  | [] => [[]]
  | ch :: cs =>
    if ch = ',' then [] :: splitAtCommas cs
    else
      match splitAtCommas cs with
      | [] => [[ch]]
      | p :: ps => (ch :: p) :: ps

/-- The value of a digit in a base up to 16. -/
def digitValue (base : Nat) (ch : Char) : Option Nat :=
  let n := ch.toNat
  let d := if '0'.toNat ≤ n ∧ n ≤ '9'.toNat then n - '0'.toNat
    else if 'A'.toNat ≤ n ∧ n ≤ 'F'.toNat then n - 'A'.toNat + 10
    else if 'a'.toNat ≤ n ∧ n ≤ 'f'.toNat then n - 'a'.toNat + 10
    else 16
  if d < base then some d else none

/-- The value of a string of digits, most significant first, continuing from `acc`. -/
def digitsValue (base : Nat) : Nat → List Char → Option Nat
  | acc, [] => some acc
  | acc, ch :: cs =>
    match digitValue base ch with
    | some d => digitsValue base (acc * base + d) cs
    | none => none

/-- An unsigned number in decimal or in `0x` hexadecimal (R60). -/
def readNumber (cs : List Char) : Except AsmError Nat :=
  match cs with
  | [] => .error .notANumber
  | ['0', 'x'] => .error .notANumber
  | '0' :: 'x' :: ds =>
    match digitsValue 16 0 ds with
    | some n => .ok n
    | none => .error .notANumber
  | ds =>
    match digitsValue 10 0 ds with
    | some n => .ok n
    | none => .error .notANumber

/-- The operands of a line: none where nothing follows the mnemonic. -/
def readOperands (cs : List Char) : Except AsmError (List Nat) :=
  if cs.all isBlank then .ok [] else (splitAtCommas cs).mapM fun p => readNumber (trimBlanks p)

/-- A number as an operand of width `w`, or the error of R60. -/
def fitOperand (w n : Nat) : Except AsmError (BitVec w) :=
  if n < 2 ^ w then .ok (BitVec.ofNat w n) else .error .operandTooWide

/-- `INIT` with its operands, the omitted trailing ones 0 (R60, R61). -/
def assembleInit : List Nat → Except AsmError Instr
  | [] => .ok (.init 0 0 0)
  | [s] => do return .init (← fitOperand 64 s) 0 0
  | [s, q] => do return .init (← fitOperand 64 s) (← fitOperand 64 q) 0
  | [s, q, o] => do return .init (← fitOperand 64 s) (← fitOperand 64 q) (← fitOperand 64 o)
  | _ => .error .wrongOperandCount

/-- `SKIP offset` (R60). -/
def assembleSkip : List Nat → Except AsmError Instr
  | [o] => do return .skip (← fitOperand 64 o)
  | _ => .error .wrongOperandCount

/-- A command without operands: `NEXTS`, `NEXTV` (R60), and `STEP`, which is `SKIP 1` (R61). -/
def assembleBare (i : Instr) : List Nat → Except AsmError Instr
  | [] => .ok i
  | _ => .error .wrongOperandCount

/-- `PERM c0, c1, c2, c3, k0, k1`: six 32-bit numbers (R60). -/
def assemblePerm : List Nat → Except AsmError Instr
  | [c0, c1, c2, c3, k0, k1] => do
    return .perm ⟨← fitOperand 32 c0, ← fitOperand 32 c1, ← fitOperand 32 c2, ← fitOperand 32 c3⟩
      ⟨← fitOperand 32 k0, ← fitOperand 32 k1⟩
  | _ => .error .wrongOperandCount

/-- The four 64-bit operands of `GENV` and `GENS` (R60). -/
def assembleGen (make : DWord → DWord → DWord → DWord → Instr) : List Nat → Except AsmError Instr
  | [s, q, o, i] => do
    return make (← fitOperand 64 s) (← fitOperand 64 q) (← fitOperand 64 o) (← fitOperand 64 i)
  | _ => .error .wrongOperandCount

/-- The mnemonics of R60 and the pseudo-instruction `STEP` of R61, with their operands. -/
def assembleCommand (mnemonic : List Char) (operands : List Nat) : Except AsmError Instr :=
  if mnemonic = ['I', 'N', 'I', 'T'] then assembleInit operands
  else if mnemonic = ['S', 'K', 'I', 'P'] then assembleSkip operands
  else if mnemonic = ['N', 'E', 'X', 'T', 'S'] then assembleBare .nexts operands
  else if mnemonic = ['N', 'E', 'X', 'T', 'V'] then assembleBare .nextv operands
  else if mnemonic = ['P', 'E', 'R', 'M'] then assemblePerm operands
  else if mnemonic = ['G', 'E', 'N', 'V'] then assembleGen .genv operands
  else if mnemonic = ['G', 'E', 'N', 'S'] then assembleGen .gens operands
  else if mnemonic = ['S', 'T', 'E', 'P'] then assembleBare (.skip 1) operands
  else .error .unknownMnemonic

/-- One line: its command, or none where the line holds only blanks and a comment (R60). Where a line has several errors, a
malformed number is reported before an unknown mnemonic, that before a wrong operand count, and that before an operand that
does not fit its width. DESIGN CHOICE, log entry 13. -/
def assembleLine (line : List Char) : Except AsmError (Option Instr) :=
  let text := trimBlanks (line.takeWhile fun ch => ch != ';')
  if text = [] then .ok none
  else do
    let operands ← readOperands (text.dropWhile fun ch => !isBlank ch)
    let i ← assembleCommand (text.takeWhile fun ch => !isBlank ch) operands
    return some i

/-- A program text: the commands of its lines in order (R26: a program "is a finite list of commands"). One line in error
rejects the whole text, with the error of the first such line. DESIGN CHOICE, log entry 17. -/
def assemble : List (List Char) → Except AsmError (List Instr)
  | [] => .ok []
  | line :: lines => do
    let first ← assembleLine line
    let others ← assemble lines
    return match first with
      | some i => i :: others
      | none => others

end Sys2Proof.Machine
end

