-- ==== Sys2Proof/Machine/Flags.lean ====
section
/-! DEFINITION. The engine has no flags, condition codes or predicates (spec/10_state.md R24). The carries of the three counter
operations are transient values inside one command; this file holds them: the lane forms of the operations
(spec/42_counter_ops.md R79, R83, R84), carry by carry. The meanings use the value forms of Counter.lean; that the two agree on
every input is a statement. -/

namespace Sys2Proof.Machine

/-- The partial sum of R83 and R84, exact in 34 bits: two 32-bit addends and a carry in. -/
def partialSum (x y : Word) (carryIn : BitVec 1) : BitVec 34 :=
  x.setWidth 34 + y.setWidth 34 + carryIn.setWidth 34

/-- The lane of a partial sum: its bits 31:0. -/
def sumLane (s : BitVec 34) : Word := s.extractLsb' 0 32

/-- The carry out of a partial sum: its bit 32 (R83). -/
def sumCarry (s : BitVec 34) : BitVec 1 := s.extractLsb' 32 1

/-- `inc`, lane form (R79): a lane changes only if every lower lane became 0 after its increment. -/
def incLanes (c : Lanes4) : Lanes4 :=
  let n0 := c.l0 + 1
  if n0 = 0 then
    let n1 := c.l1 + 1
    if n1 = 0 then
      let n2 := c.l2 + 1
      if n2 = 0 then ⟨n0, n1, n2, c.l3 + 1⟩ else ⟨n0, n1, n2, c.l3⟩
    else ⟨n0, n1, c.l2, c.l3⟩
  else ⟨n0, c.l1, c.l2, c.l3⟩

/-- `skip`, lane form (R83): schoolbook addition in base 2^32, each carry taken from the exact partial sum; the carry out of
lane 3 is discarded. -/
def skipLanes (c : Lanes4) (off : DWord) : Lanes4 :=
  let s0 := partialSum c.l0 (lo32 off) 0
  let s1 := partialSum c.l1 (hi32 off) (sumCarry s0)
  let s2 := partialSum c.l2 0 (sumCarry s1)
  ⟨sumLane s0, sumLane s1, sumLane s2, c.l3 + (sumCarry s2).setWidth 32⟩

/-- `skipsub`, lane form (R84): lanes 0 and 1 untouched; the carry out of lane 3 is discarded. -/
def skipsubLanes (c : Lanes4) (sub : DWord) : Lanes4 :=
  let s2 := partialSum c.l2 (lo32 sub) 0
  ⟨c.l0, c.l1, sumLane s2, c.l3 + hi32 sub + (sumCarry s2).setWidth 32⟩

/-- The carry test of the source's prose, "lane value now less than its pre-addition snapshot" (R83, 90_conflicts.md C1), which
the contract overrules: `skip` with it. No command uses it; it is here so that the conflict can be stated. -/
def skipBySnapshots (c : Lanes4) (off : DWord) : Lanes4 :=
  let n0 := c.l0 + lo32 off
  let k0 : Word := if n0 < c.l0 then 1 else 0
  let n1 := c.l1 + hi32 off + k0
  let k1 : Word := if n1 < c.l1 then 1 else 0
  let n2 := c.l2 + k1
  let k2 : Word := if n2 < c.l2 then 1 else 0
  ⟨n0, n1, n2, c.l3 + k2⟩

end Sys2Proof.Machine
end

