-- ==== Sys2Proof/Machine/Instances.lean ====
section
/-! DEFINITION. Many instances (spec/60_exceptions.md R119; spec/20_memory.md R41): independent copies of the single-instance machine,
stepped in any order; they share nothing but the constants of their parameter set (spec/10_state.md R22, R30). -/

namespace Sys2Proof.Machine

/-- One instance of a system. A run and its refusal are one instance's (R110, R127), so a refused instance stands refused by
itself, with its configuration, and the others go on. DEDUCED, log entry 16. -/
inductive Instance where
  | running (s : State)
  | stopped (cfg : Config) (why : Refusal)
deriving DecidableEq, Repr

/-- The configuration of an instance, running or not (R22). -/
def Instance.cfg : Instance → Config
  | .running s => s.cfg
  | .stopped cfg _ => cfg

/-- What stands of an instance of the given configuration after the outcome of its own machine; there are no faults (R106). -/
def Instance.ofOutcome (cfg : Config) : Host.Outcome State Fault Refusal → Instance
  | .next s => .running s
  | .fault f => nomatch f
  | .refused why => .stopped cfg why

/-- One step of an instance: its own machine's step; a refusal is kept (R110). -/
def Instance.step : Instance → Instance
  | .running s => .ofOutcome s.cfg (Machine.step s)
  | .stopped cfg why => .stopped cfg why

/-- A system of instances. No instance knows its number (R119). -/
abbrev System := List Instance

/-- One step of instance `k`; every other instance stands still, and a refusal of `k` touches `k` alone (R41; DEDUCED, log
entry 16). Where there is no instance `k`, nothing happens. -/
def System.stepAt (k : Nat) (sys : System) : System := sys.modify k Instance.step

/-- A run of a system: the schedule names, step by step, the instance that moves (R41: "every schedule"). -/
def System.runSchedule : List Nat → System → System
  | [], sys => sys
  | k :: later, sys => System.runSchedule later (System.stepAt k sys)

/-- Two configurations are of one parameter set: the same round count and constants; the variant is each instance's own
(R8, R10, R22). -/
def sameParameters (a b : Config) : Bool :=
  a.rounds == b.rounds && a.mult0 == b.mult0 && a.mult1 == b.mult1 && a.weyl0 == b.weyl0 && a.weyl1 == b.weyl1

/-- All instances of a system are of the parameter set of `cfg` (R22). -/
def System.sharesParameters (cfg : Config) (sys : System) : Bool := sys.all fun x => sameParameters cfg x.cfg

end Sys2Proof.Machine
end

