-- ==== Sys2Proof/Machine/Run.lean ====
section
/-! DEFINITION. A run of one instance and its result (spec/70_reset_and_hazards.md R127), and the vectors of a stream
(spec/43_stateful_commands.md R93). -/

namespace Sys2Proof.Machine

/-- Reset, then the command words presented in order: the state a run starts from (R127). -/
def State.startOfRun (cfg : Config) (ws : List CommandWord) : State := (State.resetWith cfg).present ws

/-- Commands as the words the host presents for them. -/
def commandInputs (is : List Instr) : List HostEvent := is.map fun i => .word (encode i)

/-- An instance to which the host has presented these commands and nothing else. -/
def State.given (s : State) (is : List Instr) : State := { s with inputs := commandInputs is }

/-- The result of a run (R127): the response words in order once the last command has completed; a run containing a
refused command has no result. One step completes one command. -/
def runResult (cfg : Config) (ws : List CommandWord) : Option (List ResponseWord) :=
  match Host.Core.run Sys2Proof.core ws.length (State.startOfRun cfg ws) with
  | .next s => some s.responses
  | .fault _ => none
  | .refused _ => none

/-- The counter `j` vectors past `c`: `lanes128(val128(c) +_128 j)` for a count `j` of any size (R93). -/
def counterAfter (c : Lanes4) (j : Nat) : Lanes4 := lanes128 (val128 c + BitVec.ofNat 128 j)

/-- `V(j)` of R93: the `j`-th vector of the stream that `INIT seed, sub, off` starts. -/
def streamVector (cfg : Config) (seed sub off : DWord) (j : Nat) : Lanes4 :=
  philox cfg (counterAfter (initctr sub off) j) (initkey seed)

/-- The `i`-th scalar of the flattened stream: lane `i mod 4` of `V(i div 4)` (R93). -/
def streamScalar (cfg : Config) (seed sub off : DWord) (i : Nat) : Word :=
  laneAt (streamVector cfg seed sub off (i / 4)) (BitVec.ofNat 2 i)

/-- A batch flattened in lane order (R94). -/
def lanesInOrder (b : Lanes4) : List Word := [b.l0, b.l1, b.l2, b.l3]

/-- The lanes a vector response carries, lane 0 first (R57). -/
def lanesOfResponse (r : ResponseWord) : List Word := lanesInOrder (lanes128 r)

/-- The lane a scalar response carries (R57). -/
def scalarOfResponse (r : ResponseWord) : Word := r.extractLsb' 0 32

end Sys2Proof.Machine
end

