-- ==== Sys2Proof/Safety.lean ====
section
/-! DEFINITION. What counts as a safe run: the host's duties (spec/70_reset_and_hazards.md R125, R129, R138), the invariant a run
keeps (spec/10_state.md R20), and the segment premise of the disjointness claims (R130, R131). -/

namespace Sys2Proof.Machine

/-- The command reads the registers, so it needs `INITED = 1` (R97, R125). -/
def needsInited : Instr → Bool
  | .init _ _ _ => false
  | .skip _ => true
  | .nexts => true
  | .nextv => true
  | .perm _ _ => false
  | .genv _ _ _ _ => false
  | .gens _ _ _ _ => false

/-- The command leaves `INITED = 1` whatever it was (R89). -/
def setsInited : Instr → Bool
  | .init _ _ _ => true
  | .skip _ => false
  | .nexts => false
  | .nextv => false
  | .perm _ _ => false
  | .genv _ _ _ _ => false
  | .gens _ _ _ _ => false

/-- How many response words the command owes (R56). -/
def owedBy : Instr → Nat
  | .init _ _ _ => 0
  | .skip _ => 0
  | .nexts => 1
  | .nextv => 1
  | .perm _ _ => 1
  | .genv _ _ _ _ => 1
  | .gens _ _ _ _ => 1

/-- The host keeps its duties over what it presents, from an instance of variant `v` whose flag is `inited`: no reserved
word (R129), and `INIT` before the first `NEXTV`, `NEXTS` or `SKIP` after each reset (R125); words after a reset run after it (DEDUCED,
log entry 6). -/
def hostKeepsDuties (v : Variant) (inited : Bool) : List HostEvent → Bool
  | [] => true
  | .reset :: later => hostKeepsDuties v false later
  | .word w :: later =>
    match decode v w with
    | .ok i => (inited || !needsInited i) && hostKeepsDuties v (inited || setsInited i) later
    | .error _ => false

/-- How many responses stand on the channel once everything presented has completed, `n` standing there now: reset leaves
none pending (R122; that those delivered before it no longer stand there is DEDUCED, log entry 8), a command adds those it
owes (R56). -/
def owedResponses (v : Variant) (n : Nat) : List HostEvent → Nat
  | [] => n
  | .reset :: later => owedResponses v 0 later
  | .word w :: later =>
    match decode v w with
    | .ok i => owedResponses v (n + owedBy i) later
    | .error _ => owedResponses v n later

/-- The buffer invariant (R20): whenever `INITED = 1`, `BUF = philox(CTR, KEY)`. -/
abbrev State.bufferFresh (s : State) : Prop := s.inited = true → s.buf = philox s.cfg s.ctr s.key

/-- The states a machine built from a valid parameter set can be in (R20, R107). -/
abbrev State.Safe (s : State) : Prop := s.cfg.wf = true ∧ s.bufferFresh

/-- Vector number `j` of a stream that starts at `off` is inside its subsequence's segment (R130): `off + j < 2^64`. -/
abbrev inSegment (off : DWord) (j : Nat) : Prop := off.toNat + j < 2 ^ 64

/-- Two states that a host cannot tell apart and whose runs it never will (R25, R97): the same configuration, flag and
channels; the same registers once `INITED = 1`, but for the cursor that a `VECTOR` instance does not have. -/
abbrev State.alike (s t : State) : Prop :=
  s.cfg = t.cfg ∧ s.inited = t.inited ∧ s.inputs = t.inputs ∧ s.responses = t.responses ∧
    (s.inited = true → s.ctr = t.ctr ∧ s.key = t.key ∧ s.buf = t.buf ∧ (s.cfg.variant = .single → s.pos = t.pos))

end Sys2Proof.Machine
end

