-- ==== Sys2Proof/Certificates/Slice0/Obligations.lean ====
section
/-! DEFINITION. The statements for the provers: what the numbered rules of the spec say the engine does. A run of `k` steps is
`Host.Core.run Sys2Proof.core k s`. -/

open Sys2Proof Sys2Proof.Machine

/-! ### Encoding (spec/30_encoding.md) -/

/-- R55, R46 to R50: every command a variant accepts, with every operand at every value, is what its word decodes to. -/
def Obligations.DecodeOfEncodeReturnsTheCommand : Prop :=
  ∀ (v : Variant) (i : Instr), i.wellFormed v = true → decode v (encode i) = .ok i

/-- R55, whole: the decoder's seven cases over the slices of the word, `Reserved` otherwise, and the two round trips. -/
def Obligations.DecoderFollowsTheCases : Prop :=
  (∀ (v : Variant) (w : CommandWord),
    let opc := w.extractLsb' 256 8
    let d := w.extractLsb' 192 64
    let c := w.extractLsb' 128 64
    let b := w.extractLsb' 64 64
    let a := w.extractLsb' 0 64
    let isInit := opc = 0x01#8 ∧ d = 0
    let isSkip := opc = 0x02#8 ∧ b = 0 ∧ c = 0 ∧ d = 0
    let isNexts := opc = 0x03#8 ∧ a = 0 ∧ b = 0 ∧ c = 0 ∧ d = 0 ∧ v = .single
    let isNextv := opc = 0x04#8 ∧ a = 0 ∧ b = 0 ∧ c = 0 ∧ d = 0 ∧ v = .vector
    let isPerm := opc = 0x10#8 ∧ d = 0
    let isGenv := opc = 0x11#8
    let isGens := opc = 0x12#8
    (isInit → decode v w = .ok (.init a b c)) ∧
    (isSkip → decode v w = .ok (.skip a)) ∧
    (isNexts → decode v w = .ok .nexts) ∧
    (isNextv → decode v w = .ok .nextv) ∧
    (isPerm → decode v w =
      .ok (.perm ⟨a.extractLsb' 0 32, a.extractLsb' 32 32, b.extractLsb' 0 32, b.extractLsb' 32 32⟩
        ⟨c.extractLsb' 0 32, c.extractLsb' 32 32⟩)) ∧
    (isGenv → decode v w = .ok (.genv a b c d)) ∧
    (isGens → decode v w = .ok (.gens a b c d)) ∧
    (¬ isInit ∧ ¬ isSkip ∧ ¬ isNexts ∧ ¬ isNextv ∧ ¬ isPerm ∧ ¬ isGenv ∧ ¬ isGens → ∃ e, decode v w = .error e)) ∧
  (∀ (v : Variant) (i : Instr), i.wellFormed v = true → decode v (encode i) = .ok i) ∧
  (∀ (v : Variant) (w : CommandWord) (i : Instr), decode v w = .ok i → encode i = w)

/-- R51: a word presented to an instance is refused as reserved exactly when (a), (b) or (c) of the rule holds, and then
the run stays refused. -/
def Obligations.ReservedWordsAreRefused : Prop :=
  ∀ (s : State) (w : CommandWord) (later : List HostEvent), s.inputs = .word w :: later →
    let opc := w.extractLsb' 256 8
    let d := w.extractLsb' 192 64
    let c := w.extractLsb' 128 64
    let b := w.extractLsb' 64 64
    let a := w.extractLsb' 0 64
    let unassigned := opc ≠ 0x01#8 ∧ opc ≠ 0x02#8 ∧ opc ≠ 0x03#8 ∧ opc ≠ 0x04#8 ∧ opc ≠ 0x10#8 ∧ opc ≠ 0x11#8 ∧ opc ≠ 0x12#8
    let unusedNotZero :=
      ((opc = 0x01#8 ∨ opc = 0x10#8) ∧ d ≠ 0) ∨
      (opc = 0x02#8 ∧ (b ≠ 0 ∨ c ≠ 0 ∨ d ≠ 0)) ∨
      ((opc = 0x03#8 ∨ opc = 0x04#8) ∧ (a ≠ 0 ∨ b ≠ 0 ∨ c ≠ 0 ∨ d ≠ 0))
    let wrongVariant := (opc = 0x03#8 ∧ s.cfg.variant = .vector) ∨ (opc = 0x04#8 ∧ s.cfg.variant = .single)
    (unassigned ∨ unusedNotZero ∨ wrongVariant) ↔
      ∃ why, ∀ k, Host.Core.run Sys2Proof.core (k + 1) s = .refused (.reserved why)

/-- 95_test_vectors.md section 2.11 (V100 to V103, V106, V108, V109): a few words written out bit by bit. -/
def Obligations.SampleWordsDecode : Prop :=
  decode .single 0x010000000000000000000000000000000500000000000000070123456789ABCDEF#264 =
      .ok (.init 0x0123456789ABCDEF#64 7#64 5#64) ∧
    decode .vector 0x02000000000000000000000000000000000000000000000000FFFFFFFEFFFFFFFF#264 =
      .ok (.skip 0xFFFFFFFEFFFFFFFF#64) ∧
    decode .single 0x030000000000000000000000000000000000000000000000000000000000000000#264 = .ok .nexts ∧
    decode .vector 0x040000000000000000000000000000000000000000000000000000000000000000#264 = .ok .nextv ∧
    decode .single 0x100000000000000000000000060000000500000004000000030000000200000001#264 = .ok (.perm ⟨1, 2, 3, 4⟩ ⟨5, 6⟩) ∧
    decode .vector 0x12000000000000000A000000000000000300000000000000020000000000000001#264 = .ok (.gens 1 2 3 10) ∧
    decode .single 0x050000000000000000000000000000000000000000000000000000000000000000#264 =
      .error (.unassignedOpcode 5) ∧
    decode .vector 0x010000000000000001000000000000000500000000000000070123456789ABCDEF#264 = .error .unusedSlotNotZero

/-- R59 with R33: the stored form of command and response words, and that the decoder reads the stored form back. -/
def Obligations.StoredFormIsLittleEndian : Prop :=
  ∀ (w : CommandWord) (r : ResponseWord),
    (commandBytes w).length = 33 ∧ (responseBytes r).length = 16 ∧
    (∀ j, j < 33 → (commandBytes w)[j]? = some (w.extractLsb' (8 * j) 8)) ∧
    (∀ j, j < 16 → (responseBytes r)[j]? = some (r.extractLsb' (8 * j) 8)) ∧
    (commandBytes w)[0]? = some ((fieldsOf w).a.extractLsb' 0 8) ∧
    (commandBytes w)[32]? = some (fieldsOf w).opc ∧
    (∀ (v : Variant) (rest : List Byte) (i : Instr),
      decodeBytes v (commandBytes w ++ rest) = .ok (i, rest) ↔ decode v w = .ok i)

/-- R52: only the opcodes `0x03` and `0x04` depend on the variant, each decodes to its command on its own variant only,
and no step changes the variant. -/
def Obligations.VariantChangesOnlyTheOutputCommands : Prop :=
  (∀ w : CommandWord, w.extractLsb' 256 8 ≠ 0x03#8 → w.extractLsb' 256 8 ≠ 0x04#8 →
      decode .single w = decode .vector w) ∧
    (∀ (v : Variant) (w : CommandWord) (i : Instr), decode v w = .ok i →
      (w.extractLsb' 256 8 = 0x03#8 → i = .nexts ∧ v = .single) ∧
        (w.extractLsb' 256 8 = 0x04#8 → i = .nextv ∧ v = .vector)) ∧
    ∀ s t : State, step s = .next t → t.cfg.variant = s.cfg.variant

/-! ### Arithmetic (spec/40_arith_primitives.md, spec/41_round_engine.md) -/

/-- R63, R64: the halves of a 64-bit value. -/
def Obligations.HalvesOfA64BitValue : Prop :=
  ∀ v : DWord, lo32 v = v.extractLsb' 0 32 ∧ hi32 v = v.extractLsb' 32 32 ∧
    (lo32 v).toNat = v.toNat % 2 ^ 32 ∧ (hi32 v).toNat = v.toNat / 2 ^ 32 ∧
    v.toNat = (hi32 v).toNat * 2 ^ 32 + (lo32 v).toNat

/-- R65: `product = high32 * 2^32 + low32`, exactly; and the rule's corner cases. -/
def Obligations.SplitMultiplyIsExact : Prop :=
  (∀ a b : Word, (mulhilo a b).1.toNat * 2 ^ 32 + (mulhilo a b).2.toNat = a.toNat * b.toNat) ∧
    (∀ a b : Word, mulhilo a b = mulhilo b a) ∧
    (∀ b : Word, mulhilo 0 b = (0, 0) ∧ mulhilo b 0 = (0, 0) ∧ mulhilo 1 b = (0, b)) ∧
    mulhilo 0xFFFFFFFF#32 0xFFFFFFFF#32 = (0xFFFFFFFE#32, 0x00000001#32) ∧
    mulhilo 0x80000000#32 2#32 = (1, 0) ∧ mulhilo 0x10000#32 0x10000#32 = (1, 0) ∧
    mulhilo 0x12345678#32 0x9ABCDEF0#32 = (0x0B00EA4E#32, 0x242D2080#32)

/-- R70: one round, its products as exact numbers: the high half of the lane-2 product goes to lane 0 and its low half to
lane 1, the high half of the lane-0 product to lane 2 and its low half to lane 3. -/
def Obligations.RoundCrossesTheProducts : Prop :=
  ∀ (cfg : Config) (c : Lanes4) (k : Lanes2),
    let p0 := c.l0.toNat * cfg.mult0.toNat
    let p1 := c.l2.toNat * cfg.mult1.toNat
    round cfg c k =
      ⟨BitVec.ofNat 32 (p1 / 2 ^ 32) ^^^ c.l1 ^^^ k.l0, BitVec.ofNat 32 (p1 % 2 ^ 32),
        BitVec.ofNat 32 (p0 / 2 ^ 32) ^^^ c.l3 ^^^ k.l1, BitVec.ofNat 32 (p0 % 2 ^ 32)⟩

/-- R72: the key bump adds modulo 2^32 lane by lane, and `i` bumps add `i` times the Weyl constants. -/
def Obligations.KeyBumpsAddUp : Prop :=
  ∀ (cfg : Config) (k : Lanes2),
    ((bumpkey cfg k).l0.toNat = (k.l0.toNat + cfg.weyl0.toNat) % 2 ^ 32 ∧
      (bumpkey cfg k).l1.toNat = (k.l1.toNat + cfg.weyl1.toNat) % 2 ^ 32) ∧
    ∀ i : Nat, ((bumpkey cfg)^[i] k).l0.toNat = (k.l0.toNat + i * cfg.weyl0.toNat) % 2 ^ 32 ∧
      ((bumpkey cfg)^[i] k).l1.toNat = (k.l1.toNat + i * cfg.weyl1.toNat) % 2 ^ 32

/-- R71: for a fixed key the round is a bijection on counters exactly when both multipliers are odd. The last clause, that the
default multipliers are odd, rests on the numbers of log entry 3 (PRESUMED). -/
def Obligations.RoundIsBijectiveExactlyForOddMultipliers : Prop :=
  (∀ (cfg : Config) (k : Lanes2), Function.Bijective (fun c => round cfg c k) ↔
      cfg.mult0.toNat % 2 = 1 ∧ cfg.mult1.toNat % 2 = 1) ∧
    ∀ v : Variant, (Config.default v).mult0.toNat % 2 = 1 ∧ (Config.default v).mult1.toNat % 2 = 1

/-- R73: `philox` is exactly `R` rounds, round `i` with the key bumped `i` times; with `R = 1` it is one round and no bump;
it is a bijection on counters when both multipliers are odd. -/
def Obligations.PhiloxIsRRoundsOfTheKeySchedule : Prop :=
  ∀ (cfg : Config) (k : Lanes2), cfg.wf = true →
    (∀ c : Lanes4, philox cfg c k = (List.range cfg.rounds).foldl
        (fun x i => round cfg x ⟨k.l0 + BitVec.ofNat 32 i * cfg.weyl0, k.l1 + BitVec.ofNat 32 i * cfg.weyl1⟩) c) ∧
    (cfg.rounds = 1 → ∀ c : Lanes4, philox cfg c k = round cfg c k) ∧
    (cfg.mult0.toNat % 2 = 1 → cfg.mult1.toNat % 2 = 1 → Function.Bijective (fun c => philox cfg c k))

/-! ### The counter (spec/42_counter_ops.md, spec/43_stateful_commands.md section 1) -/

/-- R78, R79: `inc` is the exact 128-bit increment, equal to the carry chain of R79 on every input; a lane changes only if
every lower lane was all ones. -/
def Obligations.IncrementIsTheCarryChain : Prop :=
  ∀ c : Lanes4, (val128 (inc c)).toNat = ((val128 c).toNat + 1) % 2 ^ 128 ∧ inc c = incLanes c ∧
    ((inc c).l1 ≠ c.l1 → c.l0 = 0xFFFFFFFF#32) ∧
    ((inc c).l2 ≠ c.l2 → c.l0 = 0xFFFFFFFF#32 ∧ c.l1 = 0xFFFFFFFF#32) ∧
    ((inc c).l3 ≠ c.l3 → c.l0 = 0xFFFFFFFF#32 ∧ c.l1 = 0xFFFFFFFF#32 ∧ c.l2 = 0xFFFFFFFF#32)

/-- R80, R83: `skip` is exact addition modulo 2^128, equal to the lane form of R83 on every input, and unlike the carry test
of the source's prose on the rule's witness. -/
def Obligations.SkipIsTheLaneForm : Prop :=
  (∀ (c : Lanes4) (off : DWord), (val128 (skip c off)).toNat = ((val128 c).toNat + off.toNat) % 2 ^ 128) ∧
    (∀ (c : Lanes4) (off : DWord), skip c off = skipLanes c off) ∧
    skip ⟨1, 0, 0, 0⟩ 0xFFFFFFFFFFFFFFFF#64 = ⟨0, 0, 1, 0⟩ ∧
    skipBySnapshots ⟨1, 0, 0, 0⟩ 0xFFFFFFFFFFFFFFFF#64 = ⟨0, 0, 0, 0⟩

/-- R81, R84: `skipsub` adds to the 64-bit number in lanes 3:2 modulo 2^64 and leaves lanes 0 and 1, which is adding
`sub*2^64` modulo 2^128, and equals the lane form of R84 on every input. -/
def Obligations.SubsequenceSkipIsTheLaneForm : Prop :=
  ∀ (c : Lanes4) (sub : DWord),
    ((skipsub c sub).l0 = c.l0 ∧ (skipsub c sub).l1 = c.l1) ∧
    (skipsub c sub).l2.toNat + (skipsub c sub).l3.toNat * 2 ^ 32 =
      (c.l2.toNat + c.l3.toNat * 2 ^ 32 + sub.toNat) % 2 ^ 64 ∧
    (val128 (skipsub c sub)).toNat = ((val128 c).toNat + sub.toNat * 2 ^ 64) % 2 ^ 128 ∧
    skipsub c sub = skipsubLanes c sub

/-- R82: the skip contract, and its consequences for two skips. -/
def Obligations.SkipIsRepeatedIncrement : Prop :=
  (∀ (c : Lanes4) (off : DWord), skip c off = inc^[off.toNat] c) ∧
    (∀ (c : Lanes4) (a b : DWord), skip (skip c a) b = skip (skip c b) a) ∧
    (∀ (c : Lanes4) (a b : DWord), a.toNat + b.toNat < 2 ^ 64 → skip (skip c a) b = skip c (a + b)) ∧
    ∀ (c : Lanes4) (a b : DWord),
      (val128 (skip (skip c a) b)).toNat = ((val128 c).toNat + (a.toNat + b.toNat)) % 2 ^ 128

/-- R85: the three operations are bijections on counters for a fixed operand, and a carry out of lane 3 is dropped: the sum
wraps modulo 2^128, for `skipsub` with lanes 0 and 1 untouched. -/
def Obligations.CounterMovesAreBijectionsThatWrap : Prop :=
  Function.Bijective inc ∧ (∀ off : DWord, Function.Bijective fun c => skip c off) ∧
    (∀ sub : DWord, Function.Bijective fun c => skipsub c sub) ∧
    inc ⟨0xFFFFFFFF#32, 0xFFFFFFFF#32, 0xFFFFFFFF#32, 0xFFFFFFFF#32⟩ = ⟨0, 0, 0, 0⟩ ∧
    (∀ (c : Lanes4) (off : DWord), 2 ^ 128 ≤ (val128 c).toNat + off.toNat →
      (val128 (skip c off)).toNat = (val128 c).toNat + off.toNat - 2 ^ 128) ∧
    (∀ (c : Lanes4) (sub : DWord), 2 ^ 128 ≤ (val128 c).toNat + sub.toNat * 2 ^ 64 →
      (val128 (skipsub c sub)).toNat = (val128 c).toNat + sub.toNat * 2 ^ 64 - 2 ^ 128)

/-- R86: the operations commute; `skipsub` never changes lanes 0 and 1, and `skip` and `inc` change the number in lanes 3:2
only by the carry out of lane 1; from the zero counter no carry arises. -/
def Obligations.CounterMovesCombine : Prop :=
  (∀ (c : Lanes4) (s o : DWord), skip (skipsub c s) o = skipsub (skip c o) s ∧ inc (skipsub c s) = skipsub (inc c) s) ∧
    (∀ (c : Lanes4) (s : DWord), (skipsub c s).l0 = c.l0 ∧ (skipsub c s).l1 = c.l1) ∧
    (∀ (c : Lanes4) (o : DWord), c.l0.toNat + c.l1.toNat * 2 ^ 32 + o.toNat < 2 ^ 64 →
      (skip c o).l2 = c.l2 ∧ (skip c o).l3 = c.l3) ∧
    (∀ c : Lanes4, c.l0.toNat + c.l1.toNat * 2 ^ 32 + 1 < 2 ^ 64 → (inc c).l2 = c.l2 ∧ (inc c).l3 = c.l3) ∧
    ∀ s o : DWord, skip (skipsub ⟨0, 0, 0, 0⟩ s) o =
      ⟨o.extractLsb' 0 32, o.extractLsb' 32 32, s.extractLsb' 0 32, s.extractLsb' 32 32⟩

/-- R87, R88: the counter and the key that construction builds; the key is a one-to-one image of the seed. -/
def Obligations.ConstructionSplitsItsArguments : Prop :=
  (∀ sub off : DWord, initctr sub off = skip (skipsub ⟨0, 0, 0, 0⟩ sub) off ∧
      initctr sub off = ⟨off.extractLsb' 0 32, off.extractLsb' 32 32, sub.extractLsb' 0 32, sub.extractLsb' 32 32⟩) ∧
    (∀ seed : DWord, initkey seed = ⟨seed.extractLsb' 0 32, seed.extractLsb' 32 32⟩) ∧
    Function.Bijective initkey

/-! ### The stateful commands (spec/43_stateful_commands.md section 2): encoding, result and frame -/

/-- R89: `INIT` completes in every state on both variants. The state after it is the state before with `KEY`, `CTR`, `BUF`
and `INITED` as the rule says, and `POS` 0 on a `SINGLE` instance; nothing else changes and nothing is responded. -/
def Obligations.InitConstructsTheGenerator : Prop :=
  ∀ (seed sub off : DWord) (s : State),
    decode s.cfg.variant (packFields ⟨0x01#8, 0#64, off, sub, seed⟩) = .ok (.init seed sub off) ∧
    exec (.init seed sub off) s = .next { s with
      key := ⟨seed.extractLsb' 0 32, seed.extractLsb' 32 32⟩
      ctr := ⟨off.extractLsb' 0 32, off.extractLsb' 32 32, sub.extractLsb' 0 32, sub.extractLsb' 32 32⟩
      buf := philox s.cfg ⟨off.extractLsb' 0 32, off.extractLsb' 32 32, sub.extractLsb' 0 32, sub.extractLsb' 32 32⟩
        ⟨seed.extractLsb' 0 32, seed.extractLsb' 32 32⟩
      pos := if s.cfg.variant = .single then 0 else s.pos
      inited := true }

/-- R90: `NEXTV` on a `VECTOR` instance with `INITED = 1` completes: it responds the buffered batch, advances the counter by
one and buffers the next batch; nothing else changes. With `INITED = 0` it is refused. -/
def Obligations.NextvReturnsTheBatchAndAdvances : Prop :=
  ∀ s : State, s.cfg.variant = .vector →
    decode s.cfg.variant (packFields ⟨0x04#8, 0#64, 0#64, 0#64, 0#64⟩) = .ok .nextv ∧
    (s.inited = true → ∃ c : Lanes4, (val128 c).toNat = ((val128 s.ctr).toNat + 1) % 2 ^ 128 ∧
      exec .nextv s = .next { s with
        ctr := c
        buf := philox s.cfg c s.key
        responses := s.responses ++ [s.buf.l3 ++ s.buf.l2 ++ s.buf.l1 ++ s.buf.l0] }) ∧
    (s.inited = false → exec .nextv s = .refused .notInitialised)

/-- R91: `NEXTS` on a `SINGLE` instance with `INITED = 1` completes: it responds the lane under the cursor, zero above; the
call that returns lane 3 advances the counter, buffers the next batch and puts the cursor at 0; any other only moves the
cursor. With `INITED = 0` it is refused. -/
def Obligations.NextsReturnsTheLaneUnderTheCursor : Prop :=
  ∀ s : State, s.cfg.variant = .single →
    decode s.cfg.variant (packFields ⟨0x03#8, 0#64, 0#64, 0#64, 0#64⟩) = .ok .nexts ∧
    (s.inited = true → ∃ r : ResponseWord,
      [s.buf.l0, s.buf.l1, s.buf.l2, s.buf.l3][s.pos.toNat]? = some (r.extractLsb' 0 32) ∧ r.extractLsb' 32 96 = 0 ∧
      (s.pos.toNat = 3 → ∃ c : Lanes4, (val128 c).toNat = ((val128 s.ctr).toNat + 1) % 2 ^ 128 ∧
        exec .nexts s = .next { s with
          ctr := c
          buf := philox s.cfg c s.key
          pos := 0
          responses := s.responses ++ [r] }) ∧
      (s.pos.toNat ≠ 3 → exec .nexts s = .next { s with
        pos := BitVec.ofNat 2 (s.pos.toNat + 1)
        responses := s.responses ++ [r] })) ∧
    (s.inited = false → exec .nexts s = .refused .notInitialised)

/-- R92: `SKIP` with `INITED = 1` completes on both variants: the counter moves by `offset` modulo 2^128 and the buffered
batch follows it; nothing else changes and nothing is responded. `SKIP 0` changes no state that keeps the buffer
invariant, and two skips may be exchanged. With `INITED = 0` it is refused. -/
def Obligations.SkipMovesTheCounterAndRefills : Prop :=
  (∀ (s : State) (off : DWord),
    decode s.cfg.variant (packFields ⟨0x02#8, 0#64, 0#64, 0#64, off⟩) = .ok (.skip off) ∧
    (s.inited = true → ∃ c : Lanes4, (val128 c).toNat = ((val128 s.ctr).toNat + off.toNat) % 2 ^ 128 ∧
      exec (.skip off) s = .next { s with ctr := c, buf := philox s.cfg c s.key }) ∧
    (s.inited = false → exec (.skip off) s = .refused .notInitialised)) ∧
  (∀ s : State, s.inited = true → s.bufferFresh → exec (.skip 0) s = .next s) ∧
  ∀ (s t u : State) (a b : DWord), exec (.skip a) s = .next t → exec (.skip b) t = .next u →
    ∃ t', exec (.skip b) s = .next t' ∧ exec (.skip a) t' = .next u

/-! ### The stateless commands (spec/44_stateless_commands.md) -/

/-- R100, R49: `PERM` completes in every state: it responds `philox` of its operands, taken lane by lane from the slots, and
changes nothing else. With `R = 1` the zero counter gives `(k0, 0, k1, 0)`; with odd multipliers distinct counters give
distinct batches. -/
def Obligations.PermRespondsThePermutation : Prop :=
  (∀ (v : Variant) (a b c : DWord), decode v (packFields ⟨0x10#8, 0#64, c, b, a⟩) =
    .ok (.perm ⟨a.extractLsb' 0 32, a.extractLsb' 32 32, b.extractLsb' 0 32, b.extractLsb' 32 32⟩
      ⟨c.extractLsb' 0 32, c.extractLsb' 32 32⟩)) ∧
  (∀ (c : Lanes4) (k : Lanes2) (s : State), ∃ x : Lanes4, x = philox s.cfg c k ∧
    exec (.perm c k) s = .next { s with responses := s.responses ++ [x.l3 ++ x.l2 ++ x.l1 ++ x.l0] }) ∧
  (∀ (cfg : Config) (k : Lanes2), cfg.rounds = 1 → philox cfg ⟨0, 0, 0, 0⟩ k = ⟨k.l0, 0, k.l1, 0⟩) ∧
  ∀ (cfg : Config) (k : Lanes2) (c c' : Lanes4), cfg.mult0.toNat % 2 = 1 → cfg.mult1.toNat % 2 = 1 → c ≠ c' →
    philox cfg c k ≠ philox cfg c' k

/-- R101: `GENV` completes in every state: it responds the batch of the counter `subseq*2^64 + offset + index` modulo 2^128
under the key of the seed, and changes nothing else; `offset` and `index` may be exchanged, and added where no carry is lost. -/
def Obligations.GenvRespondsTheIndexedVector : Prop :=
  (∀ (v : Variant) (seed sub off j : DWord),
    decode v (packFields ⟨0x11#8, j, off, sub, seed⟩) = .ok (.genv seed sub off j)) ∧
  (∀ (seed sub off j : DWord) (s : State) (c : Lanes4),
    (val128 c).toNat = (sub.toNat * 2 ^ 64 + off.toNat + j.toNat) % 2 ^ 128 →
    ∃ x : Lanes4, x = philox s.cfg c ⟨seed.extractLsb' 0 32, seed.extractLsb' 32 32⟩ ∧
      exec (.genv seed sub off j) s = .next { s with responses := s.responses ++ [x.l3 ++ x.l2 ++ x.l1 ++ x.l0] }) ∧
  ∀ (seed sub off j : DWord) (s : State), exec (.genv seed sub off j) s = exec (.genv seed sub j off) s ∧
    (off.toNat + j.toNat < 2 ^ 64 → exec (.genv seed sub off j) s = exec (.genv seed sub (off + j) 0) s)

/-- R102: `GENS` completes in every state: it responds lane `index mod 4`, zero above, of the batch of the counter
`subseq*2^64 + offset + index div 4` modulo 2^128 under the key of the seed, and changes nothing else. -/
def Obligations.GensRespondsTheIndexedScalar : Prop :=
  (∀ (v : Variant) (seed sub off i : DWord),
    decode v (packFields ⟨0x12#8, i, off, sub, seed⟩) = .ok (.gens seed sub off i)) ∧
  ∀ (seed sub off i : DWord) (s : State) (c x : Lanes4),
    (val128 c).toNat = (sub.toNat * 2 ^ 64 + off.toNat + i.toNat / 4) % 2 ^ 128 →
    x = philox s.cfg c ⟨seed.extractLsb' 0 32, seed.extractLsb' 32 32⟩ →
    ∃ r : ResponseWord, [x.l0, x.l1, x.l2, x.l3][i.toNat % 4]? = some (r.extractLsb' 0 32) ∧ r.extractLsb' 32 96 = 0 ∧
      exec (.gens seed sub off i) s = .next { s with responses := s.responses ++ [r] }

/-- R103, R105: the stateless commands read nothing but the round count and the four constants, and write nothing but the
response: one command has one response word, in every state of every instance of one parameter set. -/
def Obligations.StatelessCommandsTouchNoState : Prop :=
  ∀ (cfg : Config) (i : Instr),
    (∃ c k, i = .perm c k) ∨ (∃ a b c d, i = .genv a b c d) ∨ (∃ a b c d, i = .gens a b c d) →
    ∃ r : ResponseWord, ∀ s : State, s.cfg.rounds = cfg.rounds → s.cfg.mult0 = cfg.mult0 → s.cfg.mult1 = cfg.mult1 →
      s.cfg.weyl0 = cfg.weyl0 → s.cfg.weyl1 = cfg.weyl1 →
      exec i s = .next { s with responses := s.responses ++ [r] }

/-! ### Responses and frames -/

/-- R57: the response word of each command that has one. -/
def Obligations.ResponseWordLayout : Prop :=
  let carries := fun (r : ResponseWord) (x : Lanes4) =>
    r.extractLsb' 0 32 = x.l0 ∧ r.extractLsb' 32 32 = x.l1 ∧ r.extractLsb' 64 32 = x.l2 ∧ r.extractLsb' 96 32 = x.l3
  ∀ s t : State,
    (exec .nextv s = .next t → ∃ r, t.responses = s.responses ++ [r] ∧ carries r s.buf) ∧
    (∀ c k, exec (.perm c k) s = .next t → ∃ r, t.responses = s.responses ++ [r] ∧ carries r (philox s.cfg c k)) ∧
    (∀ a b c d, exec (.genv a b c d) s = .next t →
      ∃ r, t.responses = s.responses ++ [r] ∧ carries r (philox s.cfg (skip (initctr b c) d) (initkey a))) ∧
    (exec .nexts s = .next t → ∃ r, t.responses = s.responses ++ [r] ∧ r.extractLsb' 0 32 = laneAt s.buf s.pos ∧
      r.extractLsb' 32 32 = 0 ∧ r.extractLsb' 64 32 = 0 ∧ r.extractLsb' 96 32 = 0) ∧
    (∀ a b c d, exec (.gens a b c d) s = .next t → ∃ r, t.responses = s.responses ++ [r] ∧
      r.extractLsb' 0 32 = laneAt (philox s.cfg (skip (initctr b c) (d >>> 2)) (initkey a)) (d.extractLsb' 0 2) ∧
      r.extractLsb' 32 32 = 0 ∧ r.extractLsb' 64 32 = 0 ∧ r.extractLsb' 96 32 = 0)

/-- R56: each of `NEXTS`, `NEXTV`, `PERM`, `GENV`, `GENS` produces exactly one response word, placed after those already on
the channel; `INIT` and `SKIP` produce none. -/
def Obligations.OneResponsePerOutputCommand : Prop :=
  ∀ (i : Instr) (s t : State), exec i s = .next t → ∃ l : List ResponseWord, t.responses = s.responses ++ l ∧
    match i with
    | .init _ _ _ => l.length = 0
    | .skip _ => l.length = 0
    | .nexts => l.length = 1
    | .nextv => l.length = 1
    | .perm _ _ => l.length = 1
    | .genv _ _ _ _ => l.length = 1
    | .gens _ _ _ _ => l.length = 1

/-- The write side of R21, for all seven commands: what each leaves unchanged. No command writes the configuration or takes
an input; `KEY` and `INITED` are written by `INIT` only; `CTR` and `BUF` by `INIT`, `SKIP`, `NEXTV` and, when the cursor
wraps, `NEXTS`; `POS` by `INIT` and `NEXTS` only, and never on a `VECTOR` instance. -/
def Obligations.OnlyTheNamedRegistersAreWritten : Prop :=
  ∀ (i : Instr) (s t : State), exec i s = .next t →
    t.cfg = s.cfg ∧ t.inputs = s.inputs ∧ (s.cfg.variant = .vector → t.pos = s.pos) ∧
    match i with
    | .init _ _ _ => t.responses = s.responses
    | .skip _ => t.key = s.key ∧ t.pos = s.pos ∧ t.inited = s.inited ∧ t.responses = s.responses
    | .nexts => t.key = s.key ∧ t.inited = s.inited ∧ (s.pos ≠ 3 → t.ctr = s.ctr ∧ t.buf = s.buf)
    | .nextv => t.key = s.key ∧ t.pos = s.pos ∧ t.inited = s.inited
    | .perm _ _ => t.ctr = s.ctr ∧ t.key = s.key ∧ t.buf = s.buf ∧ t.pos = s.pos ∧ t.inited = s.inited
    | .genv _ _ _ _ => t.ctr = s.ctr ∧ t.key = s.key ∧ t.buf = s.buf ∧ t.pos = s.pos ∧ t.inited = s.inited
    | .gens _ _ _ _ => t.ctr = s.ctr ∧ t.key = s.key ∧ t.buf = s.buf ∧ t.pos = s.pos ∧ t.inited = s.inited

/-! ### The machine: steps, reset, refusals (spec/10_state.md, spec/60_exceptions.md, spec/70_reset_and_hazards.md) -/

/-- R39, R45: when the oldest input is a word that decodes to a command, a step takes the word off the channel and is that
command's meaning. -/
def Obligations.StepRunsTheDecodedCommand : Prop :=
  ∀ (s : State) (w : CommandWord) (later : List HostEvent) (i : Instr),
    s.inputs = .word w :: later → decode s.cfg.variant w = .ok i → step s = exec i { s with inputs := later }

/-- R122: the reset input leaves `INITED = 0`, no response pending and the configuration as it was. Two clauses are the model's
reading: that what is presented after a reset is still to come is log entry 6 (DEDUCED), and that a step waits whenever nothing
is presented, not only after reset as R124 says, is log entry 7 (DEDUCED). -/
def Obligations.WaitingAndTheResetInput : Prop :=
  (∀ s : State, s.inputs = [] → step s = .next s) ∧
    ∀ (s : State) (later : List HostEvent), s.inputs = .reset :: later →
      ∃ t, step s = .next t ∧ t.inited = false ∧ t.responses = [] ∧ t.cfg = s.cfg ∧ t.inputs = later

/-- R29: what reset leaves, for every configuration: `INITED = 0`, nothing presented, no response, the configuration; and the
state `State.reset`, a `SINGLE` instance of the default parameters of R10 (the variant is the model's choice, log entry 4; the
numbers are PRESUMED, log entry 3), is a safe state. -/
def Obligations.ResetLeavesTheFlagClear : Prop :=
  (∀ cfg : Config, (State.resetWith cfg).inited = false ∧ (State.resetWith cfg).inputs = [] ∧
      (State.resetWith cfg).responses = [] ∧ (State.resetWith cfg).cfg = cfg) ∧
    State.reset.Safe ∧ State.reset.cfg.variant = .single

/-- R97: `NEXTV`, `NEXTS` and `SKIP` with `INITED = 0` are refused, and so is the whole run in which one of them is the next
command; `INIT`, `PERM`, `GENV` and `GENS` do not need `INITED = 1`. -/
def Obligations.CommandsBeforeInitAreRefused : Prop :=
  ∀ s : State, s.inited = false →
    (s.cfg.variant = .vector → exec .nextv s = .refused .notInitialised) ∧
    (s.cfg.variant = .single → exec .nexts s = .refused .notInitialised) ∧
    (∀ off, exec (.skip off) s = .refused .notInitialised) ∧
    (∀ (w : CommandWord) (later : List HostEvent) (i : Instr), s.inputs = .word w :: later → decode s.cfg.variant w = .ok i →
      (i = .nextv ∨ i = .nexts ∨ ∃ off, i = .skip off) →
      ∀ k, Host.Core.run Sys2Proof.core (k + 1) s = .refused .notInitialised) ∧
    (∀ a b c, ∃ t, exec (.init a b c) s = .next t) ∧ (∀ c k, ∃ t, exec (.perm c k) s = .next t) ∧
    (∀ a b c d, ∃ t, exec (.genv a b c d) s = .next t) ∧ (∀ a b c d, ∃ t, exec (.gens a b c d) s = .next t)

/-- R110: no step faults; a step is refused in exactly the two situations of the rule's table, in every other it has a next
state; and a refusal is kept for the whole run. -/
def Obligations.OnlyTwoSituationsAreRefused : Prop :=
  ∀ s : State,
    (∀ f, step s ≠ .fault f) ∧
    ((∃ r, step s = .refused r) ↔ ∃ w later, s.inputs = .word w :: later ∧
      ((∃ e, decode s.cfg.variant w = .error e) ∨
        (s.inited = false ∧ ∃ i, decode s.cfg.variant w = .ok i ∧ (i = .nextv ∨ i = .nexts ∨ ∃ off, i = .skip off)))) ∧
    ((¬ ∃ r, step s = .refused r) → ∃ t, step s = .next t) ∧
    ∀ (r : Refusal) (j k : Nat), Host.Core.run Sys2Proof.core j s = .refused r →
      Host.Core.run Sys2Proof.core (j + k) s = .refused r

/-- R20: the buffer invariant holds after reset, every step keeps it, and so it holds after every run, whatever the host
presents. -/
def Obligations.BufferInvariantIsKept : Prop :=
  (∀ cfg : Config, (State.resetWith cfg).bufferFresh) ∧
    (∀ s t : State, s.bufferFresh → step s = .next t → t.bufferFresh) ∧
    ∀ (cfg : Config) (inputs : List HostEvent) (k : Nat) (t : State),
      Host.Core.run Sys2Proof.core k { State.resetWith cfg with inputs := inputs } = .next t → t.bufferFresh

/-- R22, R107: no step changes the configuration, so a valid parameter set stays valid. -/
def Obligations.ConfigurationNeverChanges : Prop :=
  ∀ (s t : State), step s = .next t → t.cfg = s.cfg ∧ (s.cfg.wf = true → t.cfg.wf = true)

/-- R16, R74: output commands and skips leave `KEY` as `INIT` wrote it: along a run in which the host presents no reset and
no `INIT`, `KEY` never changes. -/
def Obligations.KeyStaysAsInitWroteIt : Prop :=
  ∀ (k : Nat) (s t : State), Host.Core.run Sys2Proof.core k s = .next t →
    (∀ e ∈ s.inputs, ∃ w, e = .word w ∧ w.extractLsb' 256 8 ≠ 0x01#8) → t.key = s.key

/-- R19: the life of `INITED`: reset clears it, the first `INIT` sets it, nothing else writes it. -/
def Obligations.InitedIsClearedByResetAndSetByInit : Prop :=
  (∀ cfg : Config, (State.resetWith cfg).inited = false) ∧
    ∀ s t : State, step s = .next t → t.inited =
      match s.inputs with
      | [] => s.inited
      | .reset :: _ => false
      | .word w :: _ => s.inited || w.extractLsb' 256 8 == 0x01#8

/-- R25, R29, R97: the values that `CTR`, `KEY`, `BUF` and `POS` hold from reset to the first `INIT`, and the cursor field of a
`VECTOR` instance, are never seen: two states that are alike but for them answer every run alike. -/
def Obligations.UnwrittenRegistersAreNeverSeen : Prop :=
  ∀ (s t : State), s.alike t → ∀ k : Nat,
    (∀ s', Host.Core.run Sys2Proof.core k s = .next s' →
      ∃ t', Host.Core.run Sys2Proof.core k t = .next t' ∧ s'.alike t') ∧
    ∀ r, Host.Core.run Sys2Proof.core k s = .refused r → Host.Core.run Sys2Proof.core k t = .refused r

/-- R96, R98: after an `INIT` the responses are a function of the configuration and the commands from it on: two instances
with any history whatever respond alike. -/
def Obligations.InitErasesHistory : Prop :=
  ∀ (s t : State) (seed sub off : DWord) (ws : List CommandWord), s.cfg = t.cfg →
    s.inputs = .word (encode (.init seed sub off)) :: ws.map HostEvent.word → t.inputs = s.inputs →
    ∀ (k : Nat) (s' : State), Host.Core.run Sys2Proof.core k s = .next s' →
      ∃ (t' : State) (l : List ResponseWord), Host.Core.run Sys2Proof.core k t = .next t' ∧
        s'.responses = s.responses ++ l ∧ t'.responses = t.responses ++ l

/-- R127, R137, R138: if the host keeps its duties, every command it presents completes, one a step, and every response
owed is delivered. Where it presents resets, that the words after one still run is log entry 6 (DEDUCED), and that the
responses before one no longer stand on the channel is log entry 8 (DEDUCED). -/
def Obligations.DutifulHostsRunsComplete : Prop :=
  ∀ s : State, hostKeepsDuties s.cfg.variant s.inited s.inputs = true →
    ∃ t, Host.Core.run Sys2Proof.core s.inputs.length s = .next t ∧ t.inputs = [] ∧
      t.responses.length = owedResponses s.cfg.variant s.responses.length s.inputs

/-! ### Streams (spec/43_stateful_commands.md section 3; spec/44_stateless_commands.md R104; spec/70_reset_and_hazards.md section 3) -/

/-- R93, `VECTOR`: after `INIT` the `j`-th `NEXTV` responds `V(j)`, and after `m` of them the counter is `m` past the first. -/
def Obligations.VectorStreamIsTheCounterSequence : Prop :=
  ∀ (s : State) (seed sub off : DWord) (m : Nat), s.cfg.variant = .vector →
    ∃ t, Host.Core.run Sys2Proof.core (m + 1) (s.given (.init seed sub off :: List.replicate m .nextv)) = .next t ∧
      t.responses = s.responses ++ (List.range m).map (fun j => val128 (streamVector s.cfg seed sub off j)) ∧
      t.ctr = counterAfter (initctr sub off) m ∧ t.key = initkey seed

/-- R93, `SINGLE`: after `INIT` the `i`-th `NEXTS` responds lane `i mod 4` of `V(i div 4)`, and after `i` of them the counter is
`i div 4` past the first and the cursor is `i mod 4`. -/
def Obligations.ScalarStreamIsTheFlattenedSequence : Prop :=
  ∀ (s : State) (seed sub off : DWord) (m : Nat), s.cfg.variant = .single →
    ∃ t, Host.Core.run Sys2Proof.core (m + 1) (s.given (.init seed sub off :: List.replicate m .nexts)) = .next t ∧
      t.responses = s.responses ++
        (List.range m).map (fun i => (laneAt (streamVector s.cfg seed sub off (i / 4)) (BitVec.ofNat 2 i)).setWidth 128) ∧
      t.ctr = counterAfter (initctr sub off) (m / 4) ∧ t.pos.toNat = m % 4 ∧ t.key = initkey seed

/-- R93 (last sentence), R133: a `SKIP n` in the stream adds `n` to the vector number of every later output: `n` vectors on a
`VECTOR` instance, `4n` scalars, with the cursor kept, on a `SINGLE` instance. -/
def Obligations.SkipShiftsTheStream : Prop :=
  ∀ (s : State) (seed sub off n : DWord) (a b : Nat),
    (s.cfg.variant = .vector →
      ∃ t, Host.Core.run Sys2Proof.core (a + b + 2)
          (s.given (.init seed sub off :: (List.replicate a .nextv ++ .skip n :: List.replicate b .nextv))) = .next t ∧
        t.responses = s.responses ++ (List.range a).map (fun j => val128 (streamVector s.cfg seed sub off j)) ++
          (List.range b).map (fun j => val128 (streamVector s.cfg seed sub off (a + j + n.toNat)))) ∧
    (s.cfg.variant = .single →
      ∃ t, Host.Core.run Sys2Proof.core (a + b + 2)
          (s.given (.init seed sub off :: (List.replicate a .nexts ++ .skip n :: List.replicate b .nexts))) = .next t ∧
        t.responses = s.responses ++ (List.range a).map (fun i => (streamScalar s.cfg seed sub off i).setWidth 128) ++
          (List.range b).map (fun i => (streamScalar s.cfg seed sub off (a + i + 4 * n.toNat)).setWidth 128))

/-- R94: the single and the vector engine give the same stream: `4m` scalars of one are `m` batches of the other flattened in
lane order, from the same arguments. -/
def Obligations.SingleAndVectorStreamsAgree : Prop :=
  ∀ (cfg : Config) (seed sub off : DWord) (m : Nat),
    ∃ scalars batches : List ResponseWord,
      runResult { cfg with variant := .single } ((.init seed sub off :: List.replicate (4 * m) .nexts).map encode) =
        some scalars ∧
      runResult { cfg with variant := .vector } ((.init seed sub off :: List.replicate m .nextv).map encode) =
        some batches ∧
      scalars.length = 4 * m ∧ batches.length = m ∧
      scalars.map scalarOfResponse = batches.flatMap lanesOfResponse

/-- R95: skip equivalence: `INIT` with offset `K` leaves the same `CTR`, `KEY`, `BUF` and `POS` as `INIT` with offset 0 and then
`K` times `SKIP 1`, or `SKIP K`, or on a `VECTOR` instance `K` times `NEXTV`, or on a `SINGLE` instance `4K` times `NEXTS`. -/
def Obligations.SkipEquivalence : Prop :=
  ∀ (s : State) (seed sub n : DWord),
    let same := fun t u : State => u.ctr = t.ctr ∧ u.key = t.key ∧ u.buf = t.buf ∧ u.pos = t.pos
    ∃ t, Host.Core.run Sys2Proof.core 1 (s.given [.init seed sub n]) = .next t ∧
      (∃ u, Host.Core.run Sys2Proof.core (n.toNat + 1)
          (s.given (.init seed sub 0 :: List.replicate n.toNat (.skip 1))) = .next u ∧ same t u) ∧
      (∃ u, Host.Core.run Sys2Proof.core 2 (s.given [.init seed sub 0, .skip n]) = .next u ∧ same t u) ∧
      (s.cfg.variant = .vector → ∃ u, Host.Core.run Sys2Proof.core (n.toNat + 1)
          (s.given (.init seed sub 0 :: List.replicate n.toNat .nextv)) = .next u ∧ same t u) ∧
      (s.cfg.variant = .single → ∃ u, Host.Core.run Sys2Proof.core (4 * n.toNat + 1)
          (s.given (.init seed sub 0 :: List.replicate (4 * n.toNat) .nexts)) = .next u ∧ same t u)

/-- R104: the stateless and the stateful forms agree: `GENV s, q, o, j` responds what the `j`-th `NEXTV` after `INIT s, q, o`
responds, and what `PERM` of that counter and key responds; `GENS s, q, o, i` responds what the `i`-th `NEXTS` does. -/
def Obligations.StatelessAgreesWithStateful : Prop :=
  ∀ (cfg : Config) (seed sub off j : DWord),
    (cfg.variant = .vector → ∃ (rs : List ResponseWord) (r : ResponseWord),
      runResult cfg ((.init seed sub off :: List.replicate (j.toNat + 1) .nextv).map encode) = some rs ∧
      rs[j.toNat]? = some r ∧ runResult cfg [encode (.genv seed sub off j)] = some [r]) ∧
    (∃ r : ResponseWord, runResult cfg [encode (.genv seed sub off j)] = some [r] ∧
      runResult cfg [encode (.perm (counterAfter (initctr sub off) j.toNat) (initkey seed))] = some [r]) ∧
    (cfg.variant = .single → ∃ (rs : List ResponseWord) (r : ResponseWord),
      runResult cfg ((.init seed sub off :: List.replicate (j.toNat + 1) .nexts).map encode) = some rs ∧
      rs[j.toNat]? = some r ∧ runResult cfg [encode (.gens seed sub off j)] = some [r])

/-- R130: the vectors with `off + j < 2^64` have counters in the segment of their subsequence; the one with `off + j = 2^64` is
the first vector of the next subsequence, and from there on the stream is that one's. -/
def Obligations.StreamLeavesItsSegment : Prop :=
  ∀ (cfg : Config) (seed sub off : DWord) (j : Nat),
    (inSegment off j → (counterAfter (initctr sub off) j).l2 = sub.extractLsb' 0 32 ∧
      (counterAfter (initctr sub off) j).l3 = sub.extractLsb' 32 32) ∧
    (off.toNat + j = 2 ^ 64 →
      counterAfter (initctr sub off) j = ⟨0, 0, (sub + 1).extractLsb' 0 32, (sub + 1).extractLsb' 32 32⟩ ∧
      ∀ n, streamVector cfg seed sub off (j + n) = streamVector cfg seed (sub + 1) 0 n)

/-- R131: (a), (b) streams of one seed with different subsequences, each within its segment, never use the same counter, and
with odd multipliers never the same batch; (c) streams of one subsequence with offsets `o1 < o2` overlap from vector
`o2 - o1` on. -/
def Obligations.StreamsOfDifferentSubsequencesAreDisjoint : Prop :=
  (∀ (cfg : Config) (seed sub sub' off off' : DWord) (j j' : Nat), sub ≠ sub' → inSegment off j → inSegment off' j' →
    counterAfter (initctr sub off) j ≠ counterAfter (initctr sub' off') j' ∧
      (cfg.mult0.toNat % 2 = 1 → cfg.mult1.toNat % 2 = 1 →
        streamVector cfg seed sub off j ≠ streamVector cfg seed sub' off' j')) ∧
  ∀ (cfg : Config) (seed sub o1 o2 : DWord) (j : Nat), o1.toNat < o2.toNat →
    streamVector cfg seed sub o2 j = streamVector cfg seed sub o1 (o2.toNat - o1.toNat + j)

/-- R132: when `CTR` is all ones an advance takes it to zero and the stream continues with the batch of the zero counter, on
either variant. -/
def Obligations.CounterWrapsToZero : Prop :=
  ∀ s : State, s.inited = true → s.ctr = ⟨0xFFFFFFFF#32, 0xFFFFFFFF#32, 0xFFFFFFFF#32, 0xFFFFFFFF#32⟩ →
    (s.cfg.variant = .vector → ∃ t, exec .nextv s = .next t ∧ t.ctr = ⟨0, 0, 0, 0⟩ ∧
      t.buf = philox s.cfg ⟨0, 0, 0, 0⟩ s.key) ∧
    (s.cfg.variant = .single → s.pos = 3 → ∃ t, exec .nexts s = .next t ∧ t.ctr = ⟨0, 0, 0, 0⟩ ∧
      t.buf = philox s.cfg ⟨0, 0, 0, 0⟩ s.key)

/-! ### Configuration, instances, the host's side -/

/-- R107: a parameter set builds an instance exactly when it is one of this hardware's, and then a well-formed one; every one
of them passes the source's static checks. -/
def Obligations.BadParameterSetsDoNotBuild : Prop :=
  ∀ (n w r : Nat) (m0 m1 w0 w1 : Word) (v : Variant),
    (∀ cfg, Config.build n w r m0 m1 w0 w1 v = some cfg → n = 4 ∧ w = 32 ∧ cfg.wf = true ∧ cfg.rounds = r ∧
      cfg.mult0 = m0 ∧ cfg.mult1 = m1 ∧ cfg.weyl0 = w0 ∧ cfg.weyl1 = w1 ∧ cfg.variant = v ∧
      Config.sourceAdmits n w r = true) ∧
    (n = 4 → w = 32 → 0 < r → ∃ cfg, Config.build n w r m0 m1 w0 w1 v = some cfg) ∧
    (n ≠ 4 ∨ w ≠ 32 ∨ r = 0 → Config.build n w r m0 m1 w0 w1 v = none) ∧
    (Config.sourceAdmits n w r = true ↔ n % 2 = 0 ∧ 2 ≤ n ∧ n ≤ 16 ∧ w % 8 = 0 ∧ w = 32 ∧ 0 < r)

/-- R41: a step of one instance leaves every other instance as it was, whatever that one would do next and even where the step
is refused; steps of two instances may be exchanged; and the instance that moves does what its own machine does. That a
refusal stops its own instance alone is DEDUCED, log entry 16. -/
def Obligations.InstancesDoNotInteract : Prop :=
  ∀ (sys : System) (j k : Nat), j ≠ k →
    (System.stepAt j sys)[k]? = sys[k]? ∧
    System.stepAt k (System.stepAt j sys) = System.stepAt j (System.stepAt k sys) ∧
    (System.stepAt j sys).length = sys.length ∧
    ∀ s : State, sys[j]? = some (.running s) →
      (∀ t, step s = .next t → (System.stepAt j sys)[j]? = some (.running t)) ∧
      ∀ r, step s = .refused r → (System.stepAt j sys)[j]? = some (.stopped s.cfg r)

/-- R61, R60: the pseudo-instructions; that no other mnemonic is one; the textual commands with every operand in its width;
and that an operand that does not fit its width, at whatever place of whatever command, is an error and no command. The names of the errors are the model's, log entry 13. -/
def Obligations.PseudoInstructionsExpand : Prop :=
  assembleCommand "INIT".toList [] = .ok (.init 0 0 0) ∧
    (∀ s, s < 2 ^ 64 → assembleCommand "INIT".toList [s] = .ok (.init (BitVec.ofNat 64 s) 0 0)) ∧
    (∀ s q, s < 2 ^ 64 → q < 2 ^ 64 →
      assembleCommand "INIT".toList [s, q] = .ok (.init (BitVec.ofNat 64 s) (BitVec.ofNat 64 q) 0)) ∧
    assembleCommand "STEP".toList [] = .ok (.skip 1) ∧ (∀ c, skip c 1 = inc c) ∧
    (∀ (m : List Char) (ops : List Nat),
      m ∉ ["INIT".toList, "SKIP".toList, "NEXTS".toList, "NEXTV".toList, "PERM".toList, "GENV".toList, "GENS".toList,
        "STEP".toList] → assembleCommand m ops = .error .unknownMnemonic) ∧
    assembleCommand "NEXTS".toList [] = .ok .nexts ∧ assembleCommand "NEXTV".toList [] = .ok .nextv ∧
    (∀ s q o i, s < 2 ^ 64 → q < 2 ^ 64 → o < 2 ^ 64 → i < 2 ^ 64 →
      assembleCommand "SKIP".toList [o] = .ok (.skip (BitVec.ofNat 64 o)) ∧
      assembleCommand "INIT".toList [s, q, o] = .ok (.init (BitVec.ofNat 64 s) (BitVec.ofNat 64 q) (BitVec.ofNat 64 o)) ∧
      assembleCommand "GENV".toList [s, q, o, i] =
        .ok (.genv (BitVec.ofNat 64 s) (BitVec.ofNat 64 q) (BitVec.ofNat 64 o) (BitVec.ofNat 64 i)) ∧
      assembleCommand "GENS".toList [s, q, o, i] =
        .ok (.gens (BitVec.ofNat 64 s) (BitVec.ofNat 64 q) (BitVec.ofNat 64 o) (BitVec.ofNat 64 i))) ∧
    (∀ c0 c1 c2 c3 k0 k1, c0 < 2 ^ 32 → c1 < 2 ^ 32 → c2 < 2 ^ 32 → c3 < 2 ^ 32 → k0 < 2 ^ 32 → k1 < 2 ^ 32 →
      assembleCommand "PERM".toList [c0, c1, c2, c3, k0, k1] =
        .ok (.perm ⟨BitVec.ofNat 32 c0, BitVec.ofNat 32 c1, BitVec.ofNat 32 c2, BitVec.ofNat 32 c3⟩
          ⟨BitVec.ofNat 32 k0, BitVec.ofNat 32 k1⟩)) ∧
    (∀ ops : List Nat, (∃ x ∈ ops, 2 ^ 64 ≤ x) →
      (ops.length ≤ 3 → assembleCommand "INIT".toList ops = .error .operandTooWide) ∧
      (ops.length = 1 → assembleCommand "SKIP".toList ops = .error .operandTooWide) ∧
      (ops.length = 4 → assembleCommand "GENV".toList ops = .error .operandTooWide ∧
        assembleCommand "GENS".toList ops = .error .operandTooWide)) ∧
    ∀ ops : List Nat, (∃ x ∈ ops, 2 ^ 32 ≤ x) → ops.length = 6 →
      assembleCommand "PERM".toList ops = .error .operandTooWide

/-- Log entry 5: presenting a table row's word with `withFetchWord` makes the very next step that command's meaning, on an
instance of a variant that accepts it, with nothing else changed; and the table's decoder gives the command. -/
def Obligations.PresentedWordIsRunNext : Prop :=
  ∀ (s : State) (i : Instr),
    step (s.withFetchWord 264 (encode i).toNat) = exec i { s with
      cfg := { s.cfg with variant := if i.wellFormed s.cfg.variant then s.cfg.variant else s.cfg.variant.other } } ∧
    decodeTableWord 264 (encode i).toNat = some i

/-- R41: a system is the product of its instances: after any schedule an instance stands as its own machine does after that
many steps of its own, a refused instance stays refused, and schedules that give each instance as many steps leave the same
system. That a refusal stops its own instance alone is DEDUCED, log entry 16. -/
def Obligations.EveryScheduleGivesTheSameRuns : Prop :=
  ∀ (sys : System) (schedule : List Nat),
    (∀ (k : Nat) (s : State), sys[k]? = some (.running s) → (System.runSchedule schedule sys)[k]? =
      some (.ofOutcome s.cfg (Host.Core.run Sys2Proof.core (schedule.count k) s))) ∧
    (∀ (k : Nat) (cfg : Config) (r : Refusal), sys[k]? = some (.stopped cfg r) →
      (System.runSchedule schedule sys)[k]? = some (.stopped cfg r)) ∧
    ∀ other : List Nat, (∀ k, other.count k = schedule.count k) →
      System.runSchedule other sys = System.runSchedule schedule sys
end

