-- ==== Sys2Proof/Laws/Arith.lean ====
section
/-! SUPPORT. The laws of the arithmetic primitives: halves and lanes as numbers, and the two views of a counter as inverses of
each other (spec/00_scope.md R12, spec/40_arith_primitives.md R63 to R65). -/

namespace Sys2Proof.Machine

theorem lo32_toNat (v : DWord) : (lo32 v).toNat = v.toNat % 2 ^ 32 := by
  simp [lo32, BitVec.extractLsb'_toNat]

theorem hi32_toNat (v : DWord) : (hi32 v).toNat = v.toNat / 2 ^ 32 := by
  have := v.isLt
  simp only [hi32, BitVec.extractLsb'_toNat, Nat.shiftRight_eq_div_pow]
  omega

theorem join64_toNat (hi lo : Word) : (join64 hi lo).toNat = hi.toNat * 2 ^ 32 + lo.toNat := by
  simp only [join64, BitVec.toNat_append]
  rw [← Nat.shiftLeft_add_eq_or_of_lt lo.isLt, Nat.shiftLeft_eq]

@[simp] theorem lo32_join64 (hi lo : Word) : lo32 (join64 hi lo) = lo := by
  apply BitVec.eq_of_toNat_eq
  have := lo.isLt
  rw [lo32_toNat, join64_toNat]
  omega

@[simp] theorem hi32_join64 (hi lo : Word) : hi32 (join64 hi lo) = hi := by
  apply BitVec.eq_of_toNat_eq
  have := lo.isLt
  rw [hi32_toNat, join64_toNat]
  omega

@[simp] theorem join64_halves (v : DWord) : join64 (hi32 v) (lo32 v) = v := by
  apply BitVec.eq_of_toNat_eq
  rw [join64_toNat, hi32_toNat, lo32_toNat]
  omega

theorem val128_toNat (c : Lanes4) :
    (val128 c).toNat = c.l0.toNat + c.l1.toNat * 2 ^ 32 + c.l2.toNat * 2 ^ 64 + c.l3.toNat * 2 ^ 96 := by
  have h0 := c.l0.isLt
  have h1 := c.l1.isLt
  have h2 := c.l2.isLt
  simp only [val128, BitVec.toNat_append]
  rw [← Nat.shiftLeft_add_eq_or_of_lt h2, ← Nat.shiftLeft_add_eq_or_of_lt h1, ← Nat.shiftLeft_add_eq_or_of_lt h0]
  simp only [Nat.shiftLeft_eq]
  ring

theorem lanes128_lane_toNat (v : QWord) :
    (lanes128 v).l0.toNat = v.toNat % 2 ^ 32 ∧ (lanes128 v).l1.toNat = v.toNat / 2 ^ 32 % 2 ^ 32 ∧
      (lanes128 v).l2.toNat = v.toNat / 2 ^ 64 % 2 ^ 32 ∧ (lanes128 v).l3.toNat = v.toNat / 2 ^ 96 % 2 ^ 32 := by
  simp [lanes128, BitVec.extractLsb'_toNat, Nat.shiftRight_eq_div_pow]

@[simp] theorem val128_lanes128 (v : QWord) : val128 (lanes128 v) = v := by
  apply BitVec.eq_of_toNat_eq
  obtain ⟨h0, h1, h2, h3⟩ := lanes128_lane_toNat v
  have := v.isLt
  rw [val128_toNat, h0, h1, h2, h3]
  omega

/-- Two four-lane lists with the same value are the same list. -/
theorem val128_injective : Function.Injective val128 := by
  intro c d h
  have hn := congrArg BitVec.toNat h
  rw [val128_toNat, val128_toNat] at hn
  have c0 := c.l0.isLt
  have c1 := c.l1.isLt
  have c2 := c.l2.isLt
  have c3 := c.l3.isLt
  have d0 := d.l0.isLt
  have d1 := d.l1.isLt
  have d2 := d.l2.isLt
  have d3 := d.l3.isLt
  have e0 : c.l0 = d.l0 := BitVec.eq_of_toNat_eq (by omega)
  have e1 : c.l1 = d.l1 := BitVec.eq_of_toNat_eq (by omega)
  have e2 : c.l2 = d.l2 := BitVec.eq_of_toNat_eq (by omega)
  have e3 : c.l3 = d.l3 := BitVec.eq_of_toNat_eq (by omega)
  cases c
  cases d
  simp_all

@[simp] theorem lanes128_val128 (c : Lanes4) : lanes128 (val128 c) = c :=
  val128_injective (val128_lanes128 (val128 c))

/-- The product of two 32-bit values does not wrap in 64 bits (R65). -/
theorem product_toNat (a b : Word) : ((a.setWidth 64 * b.setWidth 64 : DWord)).toNat = a.toNat * b.toNat := by
  have ha := a.isLt
  have hb := b.isLt
  have : a.toNat * b.toNat < 2 ^ 64 := by
    calc a.toNat * b.toNat < 2 ^ 32 * 2 ^ 32 := Nat.mul_lt_mul'' ha hb
      _ = 2 ^ 64 := by norm_num
  simp only [BitVec.toNat_mul, BitVec.toNat_setWidth]
  rw [Nat.mod_eq_of_lt (by omega : a.toNat < 2 ^ 64), Nat.mod_eq_of_lt (by omega : b.toNat < 2 ^ 64),
    Nat.mod_eq_of_lt this]

theorem mulhilo_toNat (a b : Word) :
    (mulhilo a b).1.toNat = a.toNat * b.toNat / 2 ^ 32 ∧ (mulhilo a b).2.toNat = a.toNat * b.toNat % 2 ^ 32 := by
  simp only [mulhilo, hi32_toNat, lo32_toNat, product_toNat, and_self]

@[simp] theorem counterOfSlots_slots (c : Lanes4) : counterOfSlots (slotAOfCounter c) (slotBOfCounter c) = c := by
  simp [counterOfSlots, slotAOfCounter, slotBOfCounter]

@[simp] theorem keyOfSlot_slot (k : Lanes2) : keyOfSlot (slotCOfKey k) = k := by
  simp [keyOfSlot, slotCOfKey]

@[simp] theorem slotAOfCounter_slots (a b : DWord) : slotAOfCounter (counterOfSlots a b) = a := by
  simp [counterOfSlots, slotAOfCounter]

@[simp] theorem slotBOfCounter_slots (a b : DWord) : slotBOfCounter (counterOfSlots a b) = b := by
  simp [counterOfSlots, slotBOfCounter]

@[simp] theorem slotCOfKey_slot (c : DWord) : slotCOfKey (keyOfSlot c) = c := by
  simp [keyOfSlot, slotCOfKey]

end Sys2Proof.Machine
end

