-- ==== Sys2Proof/Laws/Counter.lean ====
section
/-! SUPPORT. The counter operations as additions of numbers (spec/42_counter_ops.md R78, R80, R81; spec/43_stateful_commands.md R87). -/

namespace Sys2Proof.Machine

/-- Two counters with the same number are the same counter. -/
theorem eq_of_val128_toNat {c d : Lanes4} (h : (val128 c).toNat = (val128 d).toNat) : c = d :=
  val128_injective (BitVec.eq_of_toNat_eq h)

theorem val128_inc (c : Lanes4) : val128 (inc c) = val128 c + 1 := by
  simp [inc]

theorem val128_skip (c : Lanes4) (off : DWord) : val128 (skip c off) = val128 c + zext128 off := by
  simp [skip]

theorem zext128_toNat (v : DWord) : (zext128 v).toNat = v.toNat := by
  have := v.isLt
  simp only [zext128, BitVec.toNat_setWidth]
  omega

theorem inc_toNat (c : Lanes4) : (val128 (inc c)).toNat = ((val128 c).toNat + 1) % 2 ^ 128 := by
  rw [val128_inc, BitVec.toNat_add]
  rfl

theorem skip_toNat (c : Lanes4) (off : DWord) :
    (val128 (skip c off)).toNat = ((val128 c).toNat + off.toNat) % 2 ^ 128 := by
  rw [val128_skip, BitVec.toNat_add, zext128_toNat]

/-- The two forms of R81: the 64-bit sum in lanes 3:2 is the addition of `sub*2^64` modulo 2^128. -/
theorem skipsub_toNat (c : Lanes4) (sub : DWord) :
    (val128 (skipsub c sub)).toNat = ((val128 c).toNat + sub.toNat * 2 ^ 64) % 2 ^ 128 := by
  have h0 := c.l0.isLt
  have h1 := c.l1.isLt
  have h2 := c.l2.isLt
  have h3 := c.l3.isLt
  have hs := sub.isLt
  simp only [val128_toNat, skipsub, lo32_toNat, hi32_toNat, BitVec.toNat_add, join64_toNat]
  omega

theorem initctr_toNat (sub off : DWord) : (val128 (initctr sub off)).toNat = off.toNat + sub.toNat * 2 ^ 64 := by
  have hs := sub.isLt
  have ho := off.isLt
  have hz : (val128 zeroCounter).toNat = 0 := by decide
  rw [initctr, skip_toNat, skipsub_toNat, hz]
  omega

end Sys2Proof.Machine
end

