-- ==== Sys2Proof/Laws/Decode.lean ====
section
/-! SUPPORT. The fields of a command word and the word of its fields are inverses of each other (spec/30_encoding.md R46). -/

namespace Sys2Proof

open Sys2Proof.Machine

/-- An append as a sum of numbers. -/
theorem append_toNat {m n : Nat} (x : BitVec m) (y : BitVec n) : (x ++ y).toNat = x.toNat * 2 ^ n + y.toNat := by
  rw [BitVec.toNat_append, ← Nat.shiftLeft_add_eq_or_of_lt y.isLt, Nat.shiftLeft_eq]

/-- The number of a command word from its fields (R46). -/
theorem packFields_toNat (f : Fields) :
    (packFields f).toNat =
      f.opc.toNat * 2 ^ 256 + f.d.toNat * 2 ^ 192 + f.c.toNat * 2 ^ 128 + f.b.toNat * 2 ^ 64 + f.a.toNat := by
  rw [packFields, append_toNat, append_toNat, append_toNat, append_toNat]
  ring

/-- The fields of a command word as numbers (R46). -/
theorem fieldsOf_toNat (w : CommandWord) :
    (fieldsOf w).opc.toNat = w.toNat / 2 ^ 256 ∧ (fieldsOf w).d.toNat = w.toNat / 2 ^ 192 % 2 ^ 64 ∧
      (fieldsOf w).c.toNat = w.toNat / 2 ^ 128 % 2 ^ 64 ∧ (fieldsOf w).b.toNat = w.toNat / 2 ^ 64 % 2 ^ 64 ∧
      (fieldsOf w).a.toNat = w.toNat % 2 ^ 64 := by
  have := w.isLt
  refine ⟨?_, ?_, ?_, ?_, ?_⟩ <;>
    simp only [fieldsOf, BitVec.extractLsb'_toNat, Nat.shiftRight_eq_div_pow] <;> omega

@[simp] theorem fieldsOf_packFields (f : Fields) : fieldsOf (packFields f) = f := by
  obtain ⟨ho, hd, hc, hb, ha⟩ := fieldsOf_toNat (packFields f)
  rw [packFields_toNat] at ho hd hc hb ha
  have o := f.opc.isLt
  have d := f.d.isLt
  have c := f.c.isLt
  have b := f.b.isLt
  have a := f.a.isLt
  have eo : (fieldsOf (packFields f)).opc = f.opc := BitVec.eq_of_toNat_eq (by omega)
  have ed : (fieldsOf (packFields f)).d = f.d := BitVec.eq_of_toNat_eq (by omega)
  have ec : (fieldsOf (packFields f)).c = f.c := BitVec.eq_of_toNat_eq (by omega)
  have eb : (fieldsOf (packFields f)).b = f.b := BitVec.eq_of_toNat_eq (by omega)
  have ea : (fieldsOf (packFields f)).a = f.a := BitVec.eq_of_toNat_eq (by omega)
  generalize fieldsOf (packFields f) = g at *
  cases f
  cases g
  simp_all

@[simp] theorem packFields_fieldsOf (w : CommandWord) : packFields (fieldsOf w) = w := by
  apply BitVec.eq_of_toNat_eq
  obtain ⟨ho, hd, hc, hb, ha⟩ := fieldsOf_toNat w
  rw [packFields_toNat, ho, hd, hc, hb, ha]
  omega

theorem decode_packFields (v : Variant) (f : Fields) : decode v (packFields f) = decodeFields v f := by
  rw [decode, fieldsOf_packFields]

theorem decode_encode_eq (v : Variant) (i : Instr) : decode v (encode i) = decodeFields v (encodeFields i) :=
  decode_packFields v (encodeFields i)

/-- Everything an accepted word can be (R55): its command's fields are the word's, and the variant accepts it. -/
theorem decodeFields_ok {v : Variant} {f : Fields} {i : Instr} (h : decodeFields v f = .ok i) :
    encodeFields i = f ∧ i.wellFormed v = true := by
  obtain ⟨opc, d, c, b, a⟩ := f
  unfold decodeFields at h
  repeat' split at h
  all_goals cases h
  all_goals simp_all [encodeFields, Instr.wellFormed]

end Sys2Proof
end

