-- ==== Sys2Proof/Laws/State.lean ====
section
/-! SUPPORT. One lemma per field per update of State, each true by unfolding the update once. -/

namespace Sys2Proof.Machine

@[simp] theorem State.setCtr_cfg (s : State) (c : Lanes4) : (s.setCtr c).cfg = s.cfg := rfl
@[simp] theorem State.setCtr_ctr (s : State) (c : Lanes4) : (s.setCtr c).ctr = c := rfl
@[simp] theorem State.setCtr_key (s : State) (c : Lanes4) : (s.setCtr c).key = s.key := rfl
@[simp] theorem State.setCtr_buf (s : State) (c : Lanes4) : (s.setCtr c).buf = s.buf := rfl
@[simp] theorem State.setCtr_pos (s : State) (c : Lanes4) : (s.setCtr c).pos = s.pos := rfl
@[simp] theorem State.setCtr_inited (s : State) (c : Lanes4) : (s.setCtr c).inited = s.inited := rfl
@[simp] theorem State.setCtr_inputs (s : State) (c : Lanes4) : (s.setCtr c).inputs = s.inputs := rfl
@[simp] theorem State.setCtr_responses (s : State) (c : Lanes4) : (s.setCtr c).responses = s.responses := rfl

@[simp] theorem State.setKey_cfg (s : State) (k : Lanes2) : (s.setKey k).cfg = s.cfg := rfl
@[simp] theorem State.setKey_ctr (s : State) (k : Lanes2) : (s.setKey k).ctr = s.ctr := rfl
@[simp] theorem State.setKey_key (s : State) (k : Lanes2) : (s.setKey k).key = k := rfl
@[simp] theorem State.setKey_buf (s : State) (k : Lanes2) : (s.setKey k).buf = s.buf := rfl
@[simp] theorem State.setKey_pos (s : State) (k : Lanes2) : (s.setKey k).pos = s.pos := rfl
@[simp] theorem State.setKey_inited (s : State) (k : Lanes2) : (s.setKey k).inited = s.inited := rfl
@[simp] theorem State.setKey_inputs (s : State) (k : Lanes2) : (s.setKey k).inputs = s.inputs := rfl
@[simp] theorem State.setKey_responses (s : State) (k : Lanes2) : (s.setKey k).responses = s.responses := rfl

@[simp] theorem State.setPos_cfg (s : State) (p : BitVec 2) : (s.setPos p).cfg = s.cfg := rfl
@[simp] theorem State.setPos_ctr (s : State) (p : BitVec 2) : (s.setPos p).ctr = s.ctr := rfl
@[simp] theorem State.setPos_key (s : State) (p : BitVec 2) : (s.setPos p).key = s.key := rfl
@[simp] theorem State.setPos_buf (s : State) (p : BitVec 2) : (s.setPos p).buf = s.buf := rfl
@[simp] theorem State.setPos_pos (s : State) (p : BitVec 2) : (s.setPos p).pos = p := rfl
@[simp] theorem State.setPos_inited (s : State) (p : BitVec 2) : (s.setPos p).inited = s.inited := rfl
@[simp] theorem State.setPos_inputs (s : State) (p : BitVec 2) : (s.setPos p).inputs = s.inputs := rfl
@[simp] theorem State.setPos_responses (s : State) (p : BitVec 2) : (s.setPos p).responses = s.responses := rfl

@[simp] theorem State.markInited_cfg (s : State) : (s.markInited).cfg = s.cfg := rfl
@[simp] theorem State.markInited_ctr (s : State) : (s.markInited).ctr = s.ctr := rfl
@[simp] theorem State.markInited_key (s : State) : (s.markInited).key = s.key := rfl
@[simp] theorem State.markInited_buf (s : State) : (s.markInited).buf = s.buf := rfl
@[simp] theorem State.markInited_pos (s : State) : (s.markInited).pos = s.pos := rfl
@[simp] theorem State.markInited_inited (s : State) : (s.markInited).inited = true := rfl
@[simp] theorem State.markInited_inputs (s : State) : (s.markInited).inputs = s.inputs := rfl
@[simp] theorem State.markInited_responses (s : State) : (s.markInited).responses = s.responses := rfl

@[simp] theorem State.refill_cfg (s : State) : (s.refill).cfg = s.cfg := rfl
@[simp] theorem State.refill_ctr (s : State) : (s.refill).ctr = s.ctr := rfl
@[simp] theorem State.refill_key (s : State) : (s.refill).key = s.key := rfl
@[simp] theorem State.refill_buf (s : State) : (s.refill).buf = philox s.cfg s.ctr s.key := rfl
@[simp] theorem State.refill_pos (s : State) : (s.refill).pos = s.pos := rfl
@[simp] theorem State.refill_inited (s : State) : (s.refill).inited = s.inited := rfl
@[simp] theorem State.refill_inputs (s : State) : (s.refill).inputs = s.inputs := rfl
@[simp] theorem State.refill_responses (s : State) : (s.refill).responses = s.responses := rfl

@[simp] theorem State.advance_cfg (s : State) : (s.advance).cfg = s.cfg := rfl
@[simp] theorem State.advance_ctr (s : State) : (s.advance).ctr = inc s.ctr := rfl
@[simp] theorem State.advance_key (s : State) : (s.advance).key = s.key := rfl
@[simp] theorem State.advance_buf (s : State) : (s.advance).buf = philox s.cfg (inc s.ctr) s.key := rfl
@[simp] theorem State.advance_pos (s : State) : (s.advance).pos = s.pos := rfl
@[simp] theorem State.advance_inited (s : State) : (s.advance).inited = s.inited := rfl
@[simp] theorem State.advance_inputs (s : State) : (s.advance).inputs = s.inputs := rfl
@[simp] theorem State.advance_responses (s : State) : (s.advance).responses = s.responses := rfl

@[simp] theorem State.respond_cfg (s : State) (r : ResponseWord) : (s.respond r).cfg = s.cfg := rfl
@[simp] theorem State.respond_ctr (s : State) (r : ResponseWord) : (s.respond r).ctr = s.ctr := rfl
@[simp] theorem State.respond_key (s : State) (r : ResponseWord) : (s.respond r).key = s.key := rfl
@[simp] theorem State.respond_buf (s : State) (r : ResponseWord) : (s.respond r).buf = s.buf := rfl
@[simp] theorem State.respond_pos (s : State) (r : ResponseWord) : (s.respond r).pos = s.pos := rfl
@[simp] theorem State.respond_inited (s : State) (r : ResponseWord) : (s.respond r).inited = s.inited := rfl
@[simp] theorem State.respond_inputs (s : State) (r : ResponseWord) : (s.respond r).inputs = s.inputs := rfl
@[simp] theorem State.respond_responses (s : State) (r : ResponseWord) : (s.respond r).responses = s.responses ++ [r] := rfl

@[simp] theorem State.respondBatch_cfg (s : State) (b : Lanes4) : (s.respondBatch b).cfg = s.cfg := rfl
@[simp] theorem State.respondBatch_ctr (s : State) (b : Lanes4) : (s.respondBatch b).ctr = s.ctr := rfl
@[simp] theorem State.respondBatch_key (s : State) (b : Lanes4) : (s.respondBatch b).key = s.key := rfl
@[simp] theorem State.respondBatch_buf (s : State) (b : Lanes4) : (s.respondBatch b).buf = s.buf := rfl
@[simp] theorem State.respondBatch_pos (s : State) (b : Lanes4) : (s.respondBatch b).pos = s.pos := rfl
@[simp] theorem State.respondBatch_inited (s : State) (b : Lanes4) : (s.respondBatch b).inited = s.inited := rfl
@[simp] theorem State.respondBatch_inputs (s : State) (b : Lanes4) : (s.respondBatch b).inputs = s.inputs := rfl
@[simp] theorem State.respondBatch_responses (s : State) (b : Lanes4) : (s.respondBatch b).responses = s.responses ++ [batchResponse b] := rfl

@[simp] theorem State.respondLane_cfg (s : State) (x : Word) : (s.respondLane x).cfg = s.cfg := rfl
@[simp] theorem State.respondLane_ctr (s : State) (x : Word) : (s.respondLane x).ctr = s.ctr := rfl
@[simp] theorem State.respondLane_key (s : State) (x : Word) : (s.respondLane x).key = s.key := rfl
@[simp] theorem State.respondLane_buf (s : State) (x : Word) : (s.respondLane x).buf = s.buf := rfl
@[simp] theorem State.respondLane_pos (s : State) (x : Word) : (s.respondLane x).pos = s.pos := rfl
@[simp] theorem State.respondLane_inited (s : State) (x : Word) : (s.respondLane x).inited = s.inited := rfl
@[simp] theorem State.respondLane_inputs (s : State) (x : Word) : (s.respondLane x).inputs = s.inputs := rfl
@[simp] theorem State.respondLane_responses (s : State) (x : Word) : (s.respondLane x).responses = s.responses ++ [laneResponse x] := rfl

@[simp] theorem State.afterReset_cfg (s : State) (later : List HostEvent) : (s.afterReset later).cfg = s.cfg := rfl
@[simp] theorem State.afterReset_ctr (s : State) (later : List HostEvent) : (s.afterReset later).ctr = (State.resetWith s.cfg).ctr := rfl
@[simp] theorem State.afterReset_key (s : State) (later : List HostEvent) : (s.afterReset later).key = (State.resetWith s.cfg).key := rfl
@[simp] theorem State.afterReset_buf (s : State) (later : List HostEvent) : (s.afterReset later).buf = (State.resetWith s.cfg).buf := rfl
@[simp] theorem State.afterReset_pos (s : State) (later : List HostEvent) : (s.afterReset later).pos = (State.resetWith s.cfg).pos := rfl
@[simp] theorem State.afterReset_inited (s : State) (later : List HostEvent) : (s.afterReset later).inited = false := rfl
@[simp] theorem State.afterReset_inputs (s : State) (later : List HostEvent) : (s.afterReset later).inputs = later := rfl
@[simp] theorem State.afterReset_responses (s : State) (later : List HostEvent) : (s.afterReset later).responses = [] := rfl

@[simp] theorem State.presentFirst_cfg (s : State) (w : CommandWord) : (s.presentFirst w).cfg = { s.cfg with variant := presentingVariant s.cfg.variant w } := rfl
@[simp] theorem State.presentFirst_ctr (s : State) (w : CommandWord) : (s.presentFirst w).ctr = s.ctr := rfl
@[simp] theorem State.presentFirst_key (s : State) (w : CommandWord) : (s.presentFirst w).key = s.key := rfl
@[simp] theorem State.presentFirst_buf (s : State) (w : CommandWord) : (s.presentFirst w).buf = s.buf := rfl
@[simp] theorem State.presentFirst_pos (s : State) (w : CommandWord) : (s.presentFirst w).pos = s.pos := rfl
@[simp] theorem State.presentFirst_inited (s : State) (w : CommandWord) : (s.presentFirst w).inited = s.inited := rfl
@[simp] theorem State.presentFirst_inputs (s : State) (w : CommandWord) : (s.presentFirst w).inputs = .word w :: s.inputs := rfl
@[simp] theorem State.presentFirst_responses (s : State) (w : CommandWord) : (s.presentFirst w).responses = s.responses := rfl

@[simp] theorem State.present_cfg (s : State) (ws : List CommandWord) : (s.present ws).cfg = s.cfg := rfl
@[simp] theorem State.present_ctr (s : State) (ws : List CommandWord) : (s.present ws).ctr = s.ctr := rfl
@[simp] theorem State.present_key (s : State) (ws : List CommandWord) : (s.present ws).key = s.key := rfl
@[simp] theorem State.present_buf (s : State) (ws : List CommandWord) : (s.present ws).buf = s.buf := rfl
@[simp] theorem State.present_pos (s : State) (ws : List CommandWord) : (s.present ws).pos = s.pos := rfl
@[simp] theorem State.present_inited (s : State) (ws : List CommandWord) : (s.present ws).inited = s.inited := rfl
@[simp] theorem State.present_inputs (s : State) (ws : List CommandWord) : (s.present ws).inputs = s.inputs ++ ws.map HostEvent.word := rfl
@[simp] theorem State.present_responses (s : State) (ws : List CommandWord) : (s.present ws).responses = s.responses := rfl

@[simp] theorem State.clearPos_cfg (s : State) : s.clearPos.cfg = s.cfg := by
  unfold State.clearPos
  split <;> rfl
@[simp] theorem State.clearPos_ctr (s : State) : s.clearPos.ctr = s.ctr := by
  unfold State.clearPos
  split <;> rfl
@[simp] theorem State.clearPos_key (s : State) : s.clearPos.key = s.key := by
  unfold State.clearPos
  split <;> rfl
@[simp] theorem State.clearPos_buf (s : State) : s.clearPos.buf = s.buf := by
  unfold State.clearPos
  split <;> rfl
@[simp] theorem State.clearPos_pos (s : State) : s.clearPos.pos = if s.cfg.variant = .single then 0 else s.pos := by
  unfold State.clearPos
  split <;> simp_all
@[simp] theorem State.clearPos_inited (s : State) : s.clearPos.inited = s.inited := by
  unfold State.clearPos
  split <;> rfl
@[simp] theorem State.clearPos_inputs (s : State) : s.clearPos.inputs = s.inputs := by
  unfold State.clearPos
  split <;> rfl
@[simp] theorem State.clearPos_responses (s : State) : s.clearPos.responses = s.responses := by
  unfold State.clearPos
  split <;> rfl

@[simp] theorem State.resetWith_cfg (cfg : Config) : (State.resetWith cfg).cfg = cfg := rfl
@[simp] theorem State.resetWith_inited (cfg : Config) : (State.resetWith cfg).inited = false := rfl
@[simp] theorem State.resetWith_inputs (cfg : Config) : (State.resetWith cfg).inputs = [] := rfl
@[simp] theorem State.resetWith_responses (cfg : Config) : (State.resetWith cfg).responses = [] := rfl

/-- Two states with equal fields are equal. -/
theorem State.eq_of_fields (s t : State) (hcfg : s.cfg = t.cfg) (hctr : s.ctr = t.ctr) (hkey : s.key = t.key)
    (hbuf : s.buf = t.buf) (hpos : s.pos = t.pos) (hinited : s.inited = t.inited) (hinputs : s.inputs = t.inputs)
    (hresponses : s.responses = t.responses) : s = t := by
  cases s
  cases t
  simp_all

end Sys2Proof.Machine
end

