-- ==== Sys2Proof/Laws/Ops.lean ====
section
/-! SUPPORT. What the shared operations can do, said once: the guards, taking an input, a meaning, a step. Later proofs cite these
instead of unfolding the operations. -/

namespace Sys2Proof.Machine

theorem whenInited_next {s t : State} {run : State → Host.Outcome State Fault Refusal}
    (h : whenInited s run = .next t) : s.inited = true ∧ run s = .next t := by
  unfold whenInited at h
  split at h
  · exact ⟨‹_›, h⟩
  · cases h

@[simp] theorem whenInited_of_inited {s : State} (h : s.inited = true)
    (run : State → Host.Outcome State Fault Refusal) : whenInited s run = run s := if_pos h

@[simp] theorem whenInited_of_not {s : State} (h : s.inited = false)
    (run : State → Host.Outcome State Fault Refusal) : whenInited s run = .refused .notInitialised := by
  simp [whenInited, h]

theorem whenVariant_next {v : Variant} {s t : State} {run : State → Host.Outcome State Fault Refusal}
    (h : whenVariant v s run = .next t) : s.cfg.variant = v ∧ run s = .next t := by
  unfold whenVariant at h
  split at h
  · exact ⟨‹_›, h⟩
  · cases h

@[simp] theorem whenVariant_of_eq {v : Variant} {s : State} (h : s.cfg.variant = v)
    (run : State → Host.Outcome State Fault Refusal) : whenVariant v s run = run s := if_pos h

@[simp] theorem whenVariant_of_ne {v : Variant} {s : State} (h : s.cfg.variant ≠ v)
    (run : State → Host.Outcome State Fault Refusal) : whenVariant v s run = .refused (.reserved .wrongVariant) :=
  if_neg h

/-- Everything a meaning can do when it answers a next state, guards included (R89 to R92, R100 to R102). -/
theorem exec_next_cases {i : Instr} {s t : State} (h : exec i s = .next t) :
    (∃ seed sub off, i = .init seed sub off ∧
        t = ((((s.setKey (initkey seed)).setCtr (initctr sub off)).refill.clearPos).markInited)) ∨
    (∃ off, i = .skip off ∧ s.inited = true ∧ t = (s.setCtr (skip s.ctr off)).refill) ∨
    (i = .nexts ∧ s.cfg.variant = .single ∧ s.inited = true ∧ s.pos = 3 ∧
        t = (s.advance.setPos 0).respondLane (laneAt s.buf s.pos)) ∨
    (i = .nexts ∧ s.cfg.variant = .single ∧ s.inited = true ∧ s.pos ≠ 3 ∧
        t = (s.setPos (s.pos + 1)).respondLane (laneAt s.buf s.pos)) ∨
    (i = .nextv ∧ s.cfg.variant = .vector ∧ s.inited = true ∧ t = s.advance.respondBatch s.buf) ∨
    (∃ c k, i = .perm c k ∧ t = s.respondBatch (philox s.cfg c k)) ∨
    (∃ seed sub off j, i = .genv seed sub off j ∧ t = s.respondBatch (generatedBatch s.cfg seed sub off j)) ∨
    (∃ seed sub off j, i = .gens seed sub off j ∧
        t = s.respondLane (laneAt (generatedBatch s.cfg seed sub off (vectorOfIndex j)) (laneOfIndex j))) := by
  cases i with
  | init seed sub off => exact .inl ⟨seed, sub, off, rfl, by cases h; rfl⟩
  | skip off =>
    simp only [exec, execSkip] at h
    obtain ⟨hi, hr⟩ := whenInited_next h
    exact .inr (.inl ⟨off, rfl, hi, by cases hr; rfl⟩)
  | nexts =>
    simp only [exec, execNexts] at h
    obtain ⟨hv, hr⟩ := whenVariant_next h
    obtain ⟨hi, hr⟩ := whenInited_next hr
    by_cases hp : s.pos = 3
    · exact .inr (.inr (.inl ⟨rfl, hv, hi, hp, by simpa [hp] using hr.symm⟩))
    · exact .inr (.inr (.inr (.inl ⟨rfl, hv, hi, hp, by rw [if_neg hp] at hr; cases hr; rfl⟩)))
  | nextv =>
    simp only [exec, execNextv] at h
    obtain ⟨hv, hr⟩ := whenVariant_next h
    obtain ⟨hi, hr⟩ := whenInited_next hr
    exact .inr (.inr (.inr (.inr (.inl ⟨rfl, hv, hi, by cases hr; rfl⟩))))
  | perm c k => exact .inr (.inr (.inr (.inr (.inr (.inl ⟨c, k, rfl, by cases h; rfl⟩)))))
  | genv a b c d => exact .inr (.inr (.inr (.inr (.inr (.inr (.inl ⟨a, b, c, d, rfl, by cases h; rfl⟩))))))
  | gens a b c d => exact .inr (.inr (.inr (.inr (.inr (.inr (.inr ⟨a, b, c, d, rfl, by cases h; rfl⟩))))))

/-- What the instance takes, by the oldest input (R39, R45, R122, R124). -/
theorem take_nil {s : State} (h : s.inputs = []) : s.take = .waiting := by
  simp [State.take, h]

theorem take_reset {s : State} {later : List HostEvent} (h : s.inputs = .reset :: later) :
    s.take = .reset (s.afterReset later) := by
  simp [State.take, h]

theorem take_command {s : State} {w : CommandWord} {later : List HostEvent} {i : Instr}
    (h : s.inputs = .word w :: later) (hd : decode s.cfg.variant w = .ok i) :
    s.take = .command i { s with inputs := later } := by
  simp [State.take, h, hd]

theorem take_reserved {s : State} {w : CommandWord} {later : List HostEvent} {e : DecodeError}
    (h : s.inputs = .word w :: later) (hd : decode s.cfg.variant w = .error e) : s.take = .reserved e := by
  simp [State.take, h, hd]

/-- Everything a step can do when it answers a next state. -/
theorem step_next_cases {s t : State} (h : step s = .next t) :
    (s.inputs = [] ∧ t = s) ∨
    (∃ later, s.inputs = .reset :: later ∧ t = s.afterReset later) ∨
    (∃ w later i, s.inputs = .word w :: later ∧ decode s.cfg.variant w = .ok i ∧
      exec i { s with inputs := later } = .next t) := by
  cases hin : s.inputs with
  | nil => exact .inl ⟨rfl, by simpa [step, take_nil hin] using h.symm⟩
  | cons e later =>
    cases e with
    | reset => exact .inr (.inl ⟨later, rfl, by simpa [step, take_reset hin] using h.symm⟩)
    | word w =>
      cases hd : decode s.cfg.variant w with
      | ok i => exact .inr (.inr ⟨w, later, i, rfl, hd, by simpa [step, take_command hin hd] using h⟩)
      | error e => simp [step, take_reserved hin hd] at h

end Sys2Proof.Machine
end

