-- ==== Sys2Proof/Laws/Exec.lean ====
section
/-! SUPPORT. One lemma per command and case: what the meaning answers, over the named operations, when its conditions hold. Later
proofs cite these and never unfold a meaning. -/

namespace Sys2Proof.Machine

theorem exec_init (seed sub off : DWord) (s : State) : exec (.init seed sub off) s =
    .next ((((s.setKey (initkey seed)).setCtr (initctr sub off)).refill.clearPos).markInited) := rfl

theorem exec_skip {s : State} (hi : s.inited = true) (off : DWord) :
    exec (.skip off) s = .next (s.setCtr (skip s.ctr off)).refill := if_pos hi

theorem exec_skip_uninited {s : State} (hi : s.inited = false) (off : DWord) :
    exec (.skip off) s = .refused .notInitialised := by
  simp only [exec, execSkip, whenInited_of_not hi]

theorem exec_nexts_wrap {s : State} (hv : s.cfg.variant = .single) (hi : s.inited = true) (hp : s.pos = 3) :
    exec .nexts s = .next ((s.advance.setPos 0).respondLane (laneAt s.buf s.pos)) := by
  simp only [exec, execNexts, whenVariant_of_eq hv, whenInited_of_inited hi]
  rw [if_pos hp]

theorem exec_nexts_move {s : State} (hv : s.cfg.variant = .single) (hi : s.inited = true) (hp : s.pos ≠ 3) :
    exec .nexts s = .next ((s.setPos (s.pos + 1)).respondLane (laneAt s.buf s.pos)) := by
  simp only [exec, execNexts, whenVariant_of_eq hv, whenInited_of_inited hi]
  rw [if_neg hp]

theorem exec_nexts_uninited {s : State} (hv : s.cfg.variant = .single) (hi : s.inited = false) :
    exec .nexts s = .refused .notInitialised := by
  simp only [exec, execNexts, whenVariant_of_eq hv, whenInited_of_not hi]

theorem exec_nextv {s : State} (hv : s.cfg.variant = .vector) (hi : s.inited = true) :
    exec .nextv s = .next (s.advance.respondBatch s.buf) := by
  simp only [exec, execNextv, whenVariant_of_eq hv, whenInited_of_inited hi]

theorem exec_nextv_uninited {s : State} (hv : s.cfg.variant = .vector) (hi : s.inited = false) :
    exec .nextv s = .refused .notInitialised := by
  simp only [exec, execNextv, whenVariant_of_eq hv, whenInited_of_not hi]

theorem exec_perm (c : Lanes4) (k : Lanes2) (s : State) :
    exec (.perm c k) s = .next (s.respondBatch (philox s.cfg c k)) := rfl

theorem exec_genv (seed sub off j : DWord) (s : State) :
    exec (.genv seed sub off j) s = .next (s.respondBatch (generatedBatch s.cfg seed sub off j)) := rfl

theorem exec_gens (seed sub off j : DWord) (s : State) : exec (.gens seed sub off j) s =
    .next (s.respondLane (laneAt (generatedBatch s.cfg seed sub off (vectorOfIndex j)) (laneOfIndex j))) := rfl

end Sys2Proof.Machine
end

