-- ==== Sys2Proof/Laws/Flags.lean ====
section
/-! SUPPORT. The partial sums of the lane forms as exact numbers (spec/42_counter_ops.md R83, R84). -/

namespace Sys2Proof.Machine

/-- A partial sum is exact: 34 bits hold two 32-bit addends and a carry (R83). -/
theorem partialSum_toNat (x y : Word) (carryIn : BitVec 1) :
    (partialSum x y carryIn).toNat = x.toNat + y.toNat + carryIn.toNat := by
  have := x.isLt
  have := y.isLt
  have := carryIn.isLt
  simp only [partialSum, BitVec.toNat_add, BitVec.toNat_setWidth]
  omega

theorem sumLane_toNat (s : BitVec 34) : (sumLane s).toNat = s.toNat % 2 ^ 32 := by
  simp [sumLane, BitVec.extractLsb'_toNat]

theorem sumCarry_toNat (s : BitVec 34) : (sumCarry s).toNat = s.toNat / 2 ^ 32 % 2 := by
  simp [sumCarry, BitVec.extractLsb'_toNat, Nat.shiftRight_eq_div_pow]

end Sys2Proof.Machine
end

