-- ==== Sys2Proof/Laws/Instances.lean ====
section
/-! SUPPORT. What a step of one instance does to a system, said once, by index; and what it does to the instance. -/

namespace Sys2Proof.Machine

@[simp] theorem Instance.ofOutcome_next (cfg : Config) (s : State) : Instance.ofOutcome cfg (.next s) = .running s := rfl

@[simp] theorem Instance.ofOutcome_refused (cfg : Config) (why : Refusal) :
    Instance.ofOutcome cfg (.refused why) = .stopped cfg why := rfl

@[simp] theorem Instance.step_stopped (cfg : Config) (why : Refusal) :
    (Instance.stopped cfg why).step = .stopped cfg why := rfl

theorem Instance.step_running_next {s t : State} (h : Machine.step s = .next t) :
    (Instance.running s).step = .running t := by
  simp [Instance.step, h]

theorem Instance.step_running_refused {s : State} {why : Refusal} (h : Machine.step s = .refused why) :
    (Instance.running s).step = .stopped s.cfg why := by
  simp [Instance.step, h]

/-- Everything `System.stepAt` does, read at one index. -/
theorem System.stepAt_getElem? (j k : Nat) (sys : System) :
    (System.stepAt j sys)[k]? = (fun x : Instance => if j = k then x.step else x) <$> sys[k]? := by
  simp [System.stepAt, List.getElem?_modify]

@[simp] theorem System.stepAt_length (k : Nat) (sys : System) : (System.stepAt k sys).length = sys.length := by
  simp [System.stepAt]

end Sys2Proof.Machine
end

