-- ==== Sys2Proof/Laws/PerInstr.lean ====
section
/-! SUPPORT. Per-command statements. Family `TableRow`: the word of a command lies in its row of spec/opcode_table.json: under the
row's mask it is the row's match. The two numbers of each row are written out from the table. -/

namespace Sys2Proof.Laws.TableRow

open Sys2Proof

/-- The `match` value of the command's row: `OPC` above 256 zero bits. -/
def rowMatch : Instr → CommandWord
  | .init _ _ _ => 0x010000000000000000000000000000000000000000000000000000000000000000#264
  | .skip _ => 0x020000000000000000000000000000000000000000000000000000000000000000#264
  | .nexts => 0x030000000000000000000000000000000000000000000000000000000000000000#264
  | .nextv => 0x040000000000000000000000000000000000000000000000000000000000000000#264
  | .perm _ _ => 0x100000000000000000000000000000000000000000000000000000000000000000#264
  | .genv _ _ _ _ => 0x110000000000000000000000000000000000000000000000000000000000000000#264
  | .gens _ _ _ _ => 0x120000000000000000000000000000000000000000000000000000000000000000#264

/-- The number of low bits that the row's mask leaves free: the used slots of R47, which are the lowest ones. -/
def freeBits : Instr → Nat
  | .init _ _ _ => 192
  | .skip _ => 64
  | .nexts => 0
  | .nextv => 0
  | .perm _ _ => 192
  | .genv _ _ _ _ => 256
  | .gens _ _ _ _ => 256

/-- The bits of the word that the row's mask covers are the row's match (R47, R50). -/
def Statement (i : Instr) : Prop := encode i >>> freeBits i = rowMatch i >>> freeBits i

/-- The number form of the statement, from the number of the packed fields. -/
theorem of_toNat {i : Instr} (h : (encode i).toNat / 2 ^ freeBits i = (rowMatch i).toNat / 2 ^ freeBits i) :
    Statement i := by
  apply BitVec.eq_of_toNat_eq
  rw [BitVec.toNat_ushiftRight, BitVec.toNat_ushiftRight, Nat.shiftRight_eq_div_pow, Nat.shiftRight_eq_div_pow, h]

theorem init (seed subseq offset : DWord) : Statement (.init seed subseq offset) := by
  apply of_toNat
  have := seed.isLt
  have := subseq.isLt
  have := offset.isLt
  simp only [encode, packFields_toNat, encodeFields, rowMatch, freeBits, BitVec.toNat_ofNat]
  omega

theorem skip (offset : DWord) : Statement (.skip offset) := by
  apply of_toNat
  have := offset.isLt
  simp only [encode, packFields_toNat, encodeFields, rowMatch, freeBits, BitVec.toNat_ofNat]
  omega

theorem nexts : Statement .nexts := by
  apply of_toNat
  simp only [encode, packFields_toNat, encodeFields, rowMatch, freeBits, BitVec.toNat_ofNat]
  omega

theorem nextv : Statement .nextv := by
  apply of_toNat
  simp only [encode, packFields_toNat, encodeFields, rowMatch, freeBits, BitVec.toNat_ofNat]
  omega

theorem perm (c : Lanes4) (k : Lanes2) : Statement (.perm c k) := by
  apply of_toNat
  have := (Machine.slotAOfCounter c).isLt
  have := (Machine.slotBOfCounter c).isLt
  have := (Machine.slotCOfKey k).isLt
  simp only [encode, packFields_toNat, encodeFields, rowMatch, freeBits, BitVec.toNat_ofNat]
  omega

theorem genv (seed subseq offset index : DWord) : Statement (.genv seed subseq offset index) := by
  apply of_toNat
  have := seed.isLt
  have := subseq.isLt
  have := offset.isLt
  have := index.isLt
  simp only [encode, packFields_toNat, encodeFields, rowMatch, freeBits, BitVec.toNat_ofNat]
  omega

theorem gens (seed subseq offset index : DWord) : Statement (.gens seed subseq offset index) := by
  apply of_toNat
  have := seed.isLt
  have := subseq.isLt
  have := offset.isLt
  have := index.isLt
  simp only [encode, packFields_toNat, encodeFields, rowMatch, freeBits, BitVec.toNat_ofNat]
  omega

end Sys2Proof.Laws.TableRow
end

