-- ==== Sys2Proof/Laws/Run.lean ====
section
/-! SUPPORT. Runs step by step: one lemma per shape of a run's first step, the composition of two runs, and the one induction that
carries a fact of every step along a run. -/

namespace Sys2Proof.Machine

@[simp] theorem runSteps_zero (s : State) : Host.Core.run Sys2Proof.core 0 s = .next s := rfl

theorem runSteps_next {s t : State} (h : step s = .next t) (k : Nat) :
    Host.Core.run Sys2Proof.core (k + 1) s = Host.Core.run Sys2Proof.core k t := by
  simp [Host.Core.run, Sys2Proof.core, h]

theorem runSteps_refused {s : State} {r : Refusal} (h : step s = .refused r) (k : Nat) :
    Host.Core.run Sys2Proof.core (k + 1) s = .refused r := by
  simp [Host.Core.run, Sys2Proof.core, h]

/-- The first step of a run that ends in a next state. -/
theorem runSteps_succ_next {k : Nat} {s u : State} (h : Host.Core.run Sys2Proof.core (k + 1) s = .next u) :
    ∃ t, step s = .next t ∧ Host.Core.run Sys2Proof.core k t = .next u := by
  cases hs : step s with
  | next t => exact ⟨t, rfl, by rwa [runSteps_next hs] at h⟩
  | fault f => exact nomatch f
  | refused r => rw [runSteps_refused hs] at h; cases h

/-- Two runs, one after the other. -/
theorem runSteps_add {j : Nat} {s t : State} (h : Host.Core.run Sys2Proof.core j s = .next t) (k : Nat) :
    Host.Core.run Sys2Proof.core (j + k) s = Host.Core.run Sys2Proof.core k t := by
  induction j generalizing s with
  | zero => cases h; simp
  | succ j ih =>
    obtain ⟨u, hu, hr⟩ := runSteps_succ_next h
    rw [Nat.add_right_comm, runSteps_next hu]
    exact ih hr

/-- What every step keeps, every run keeps. -/
theorem runSteps_keeps {P : State → Prop} (hstep : ∀ s t, P s → step s = .next t → P t) {k : Nat} {s t : State}
    (hs : P s) (h : Host.Core.run Sys2Proof.core k s = .next t) : P t := by
  induction k generalizing s with
  | zero => cases h; exact hs
  | succ k ih =>
    obtain ⟨u, hu, hr⟩ := runSteps_succ_next h
    exact ih (hstep s u hs hu) hr

/-- A step on a presented word that decodes is the meaning of its command (R39, R45). -/
theorem step_command {s : State} {w : CommandWord} {later : List HostEvent} {i : Instr}
    (h : s.inputs = .word w :: later) (hd : decode s.cfg.variant w = .ok i) :
    step s = exec i { s with inputs := later } := by
  simp [step, take_command h hd]

theorem step_reserved {s : State} {w : CommandWord} {later : List HostEvent} {e : DecodeError}
    (h : s.inputs = .word w :: later) (hd : decode s.cfg.variant w = .error e) :
    step s = .refused (.reserved e) := by
  simp [step, take_reserved h hd]

theorem step_waiting {s : State} (h : s.inputs = []) : step s = .next s := by
  simp [step, take_nil h]

theorem step_reset {s : State} {later : List HostEvent} (h : s.inputs = .reset :: later) :
    step s = .next (s.afterReset later) := by
  simp [step, take_reset h]

/-! ### The counter of a stream (R93) -/

theorem counterAfter_toNat (c : Lanes4) (j : Nat) :
    (val128 (counterAfter c j)).toNat = ((val128 c).toNat + j) % 2 ^ 128 := by
  simp [counterAfter]

@[simp] theorem counterAfter_zero (c : Lanes4) : counterAfter c 0 = c := by
  simp [counterAfter]

theorem counterAfter_add (c : Lanes4) (i j : Nat) : counterAfter (counterAfter c i) j = counterAfter c (i + j) := by
  apply eq_of_val128_toNat
  simp only [counterAfter_toNat]
  omega

/-- An advance is one vector further. -/
theorem inc_eq_counterAfter (c : Lanes4) : inc c = counterAfter c 1 := by
  apply eq_of_val128_toNat
  simp only [counterAfter_toNat, inc_toNat]

/-- A skip is that many vectors further. -/
theorem skip_eq_counterAfter (c : Lanes4) (n : DWord) : skip c n = counterAfter c n.toNat := by
  apply eq_of_val128_toNat
  simp only [counterAfter_toNat, skip_toNat]

/-- The number of the counter of vector `j` (R87, R93). -/
theorem counterAfter_initctr_toNat (sub off : DWord) (j : Nat) :
    (val128 (counterAfter (initctr sub off) j)).toNat = (off.toNat + sub.toNat * 2 ^ 64 + j) % 2 ^ 128 := by
  rw [counterAfter_toNat, initctr_toNat]

end Sys2Proof.Machine
end

