-- ==== Sys2Proof/Tests/Slice0.lean ====
section
/-! SUPPORT. Small tests, with expected values from spec/95_test_vectors.md (the id V<n> is in each comment) or written out from
the encoding rules of spec/30_encoding.md, and one witness for the hypotheses of each statement that has any. -/

namespace Sys2Proof.Tests

open Sys2Proof Sys2Proof.Machine

set_option exponentiation.threshold 300

/-! ### Helpers -/

/-- An instance with `INITED = 1` that keeps the buffer invariant: seed 1 (V84, P2). -/
def ready (v : Variant) (c : Lanes4) (p : BitVec 2) : State where
  cfg := Config.default v
  ctr := c
  key := ⟨1, 0⟩
  buf := philox (Config.default v) c ⟨1, 0⟩
  pos := p
  inited := true
  inputs := []
  responses := []

/-- An instance right after reset to which one word is presented. -/
def offered (v : Variant) (w : CommandWord) : State := State.startOfRun (Config.default v) [w]

/-- One fact about the next state of an outcome; false where there is none. -/
def onNext (o : Host.Outcome State Fault Refusal) (p : State → Bool) : Bool :=
  match o with
  | .next t => p t
  | .fault _ => false
  | .refused _ => false

/-- The default constants with another round count. -/
def withRounds (r : Nat) : Config := { Config.default .single with rounds := r }

/-! ### WellFormed: what it refuses (R9, R52) -/

theorem test_wellFormed_refuses_nexts_on_vector : Instr.nexts.wellFormed .vector = false := by decide
theorem test_wellFormed_refuses_nextv_on_single : Instr.nextv.wellFormed .single = false := by decide
theorem test_wellFormed_accepts_the_other_five : ∀ v : Variant,
    (Instr.init 0 0 0).wellFormed v = true ∧ (Instr.skip 1).wellFormed v = true ∧
      (Instr.perm ⟨1, 2, 3, 4⟩ ⟨5, 6⟩).wellFormed v = true ∧ (Instr.genv 1 2 3 2).wellFormed v = true ∧
      (Instr.gens 1 2 3 10).wellFormed v = true := by
  intro v; cases v <;> decide

/-- The parameter sets of S10: what `Config.wf` and the build refuse (R107). -/
theorem test_config_wf_refuses_zero_rounds : (withRounds 0).wf = false := by decide
theorem test_build_refuses : Config.build 3 32 10 1 1 1 1 .single = none ∧ Config.build 4 64 10 1 1 1 1 .single = none ∧
    Config.build 4 32 0 1 1 1 1 .vector = none ∧ Config.build 2 32 10 1 1 1 1 .vector = none := by decide
theorem test_source_admits : Config.sourceAdmits 4 32 10 = true ∧ Config.sourceAdmits 4 32 1 = true ∧
    Config.sourceAdmits 2 32 10 = true ∧ Config.sourceAdmits 3 32 10 = false ∧ Config.sourceAdmits 4 64 10 = false ∧
    Config.sourceAdmits 4 32 0 = false := by decide

/-! ### Decoding: words written out from R46 to R50 as `OPC D C B A` -/

/-- V100. -/
theorem test_decode_init : ∀ v : Variant,
    decode v (0x01#8 ++ 0x0000000000000000#64 ++ 0x0000000000000005#64 ++ 0x0000000000000007#64 ++ 0x0123456789ABCDEF#64) =
      .ok (.init 0x0123456789ABCDEF#64 7 5) := by intro v; cases v <;> decide
/-- V101. -/
theorem test_decode_skip : ∀ v : Variant,
    decode v 0x02000000000000000000000000000000000000000000000000FFFFFFFEFFFFFFFF#264 = .ok (.skip 0xFFFFFFFEFFFFFFFF#64) := by
  intro v; cases v <;> decide
/-- V102. -/
theorem test_decode_nexts :
    decode .single 0x030000000000000000000000000000000000000000000000000000000000000000#264 = .ok .nexts ∧
      decode .vector 0x030000000000000000000000000000000000000000000000000000000000000000#264 = .error .wrongVariant := by
  decide
/-- V103. -/
theorem test_decode_nextv :
    decode .vector 0x040000000000000000000000000000000000000000000000000000000000000000#264 = .ok .nextv ∧
      decode .single 0x040000000000000000000000000000000000000000000000000000000000000000#264 = .error .wrongVariant := by
  decide
/-- V104, and the fourth command of P4. -/
theorem test_decode_perm :
    decode .single 0x100000000000000000000000060000000500000004000000030000000200000001#264 = .ok (.perm ⟨1, 2, 3, 4⟩ ⟨5, 6⟩) ∧
      decode .vector 0x100000000000000000299F31D0A40938220370734413198A2E85A308D3243F6A88#264 =
        .ok (.perm ⟨0x243F6A88#32, 0x85A308D3#32, 0x13198A2E#32, 0x03707344#32⟩ ⟨0xA4093822#32, 0x299F31D0#32⟩) := by
  decide
/-- V105, V114. -/
theorem test_decode_genv :
    decode .vector 0x110000000000000002000000000000000300000000000000020000000000000001#264 = .ok (.genv 1 2 3 2) ∧
      decode .single 0x11FFFFFFFFFFFFFFFFFFFFFFFFFFFFFFFFFFFFFFFFFFFFFFFFFFFFFFFFFFFFFFFF#264 =
        .ok (.genv 0xFFFFFFFFFFFFFFFF#64 0xFFFFFFFFFFFFFFFF#64 0xFFFFFFFFFFFFFFFF#64 0xFFFFFFFFFFFFFFFF#64) := by
  decide
/-- V106. -/
theorem test_decode_gens :
    decode .single 0x12000000000000000A000000000000000300000000000000020000000000000001#264 = .ok (.gens 1 2 3 10) := by decide
/-- V107, V108, V113: an unassigned opcode. -/
theorem test_decode_unassigned : ∀ v : Variant,
    decode v 0x000000000000000000000000000000000000000000000000000000000000000000#264 = .error (.unassignedOpcode 0) ∧
      decode v 0x050000000000000000000000000000000000000000000000000000000000000000#264 = .error (.unassignedOpcode 5) ∧
      decode v 0xFFFFFFFFFFFFFFFFFFFFFFFFFFFFFFFFFFFFFFFFFFFFFFFFFFFFFFFFFFFFFFFFFF#264 =
        .error (.unassignedOpcode 0xFF) := by intro v; cases v <;> decide
/-- V109 to V112: an unused slot that is not zero. -/
theorem test_decode_unused_slot : ∀ v : Variant,
    decode v 0x010000000000000001000000000000000500000000000000070123456789ABCDEF#264 = .error .unusedSlotNotZero ∧
      decode v 0x020000000000000000000000000000000000000000000000010000000000000001#264 = .error .unusedSlotNotZero ∧
      decode v 0x030000000000000000000000000000000000000000000000000000000000000001#264 = .error .unusedSlotNotZero ∧
      decode v 0x100000000000000001000000060000000500000004000000030000000200000001#264 = .error .unusedSlotNotZero := by
  intro v; cases v <;> decide
/-- V100, V104, V106 encoded. -/
theorem test_encode :
    encode (.init 0x0123456789ABCDEF#64 7 5) = 0x010000000000000000000000000000000500000000000000070123456789ABCDEF#264 ∧
      encode (.perm ⟨1, 2, 3, 4⟩ ⟨5, 6⟩) = 0x100000000000000000000000060000000500000004000000030000000200000001#264 ∧
      encode (.gens 1 2 3 10) = 0x12000000000000000A000000000000000300000000000000020000000000000001#264 := by decide
/-- 95_test_vectors.md section 2.11: the word of V100 as stored bytes, and the same bytes decoded (R33, R59). -/
theorem test_stored_bytes :
    commandBytes (encode (.init 0x0123456789ABCDEF#64 7 5)) =
      [0xEF, 0xCD, 0xAB, 0x89, 0x67, 0x45, 0x23, 0x01, 7, 0, 0, 0, 0, 0, 0, 0, 5, 0, 0, 0, 0, 0, 0, 0,
        0, 0, 0, 0, 0, 0, 0, 0, 1] := by decide
theorem test_decode_bytes :
    decodeBytes .single [0xEF, 0xCD, 0xAB, 0x89, 0x67, 0x45, 0x23, 0x01, 7, 0, 0, 0, 0, 0, 0, 0, 5, 0, 0, 0, 0, 0, 0, 0,
        0, 0, 0, 0, 0, 0, 0, 0, 1, 0xAA] = .ok (.init 0x0123456789ABCDEF#64 7 5, [0xAA]) ∧
      decodeBytes .single [1, 2, 3] = .error .truncated := by decide
/-- The table's numbering: rows of both variants are decoded (R47). -/
theorem test_decode_table_word :
    decodeTableWord 264 0x040000000000000000000000000000000000000000000000000000000000000000 = some .nextv ∧
      decodeTableWord 264 0x030000000000000000000000000000000000000000000000000000000000000000 = some .nexts ∧
      decodeTableWord 264 0x050000000000000000000000000000000000000000000000000000000000000000 = none := by decide

/-! ### Arithmetic, the round, the counter -/

/-- V2, V4. -/
theorem test_halves : lo32 0x0123456789ABCDEF#64 = 0x89ABCDEF#32 ∧ hi32 0x0123456789ABCDEF#64 = 0x01234567#32 ∧
    lo32 0x0000000100000000#64 = 0 ∧ hi32 0x0000000100000000#64 = 1 := by decide
/-- V12, V15, V18. -/
theorem test_mulhilo : mulhilo 0xFFFFFFFF#32 0xFFFFFFFF#32 = (0xFFFFFFFE#32, 1) ∧
    mulhilo 0x12345678#32 0x9ABCDEF0#32 = (0x0B00EA4E#32, 0x242D2080#32) ∧
    mulhilo 0x243F6A88#32 0xD2511F53#32 = (0x1DC781E3#32, 0xB37E0218#32) := by decide
/-- V21, V22, V23: the key and the odd lanes. -/
theorem test_round_routes_lanes : Machine.round (Config.default .single) ⟨0, 0, 0, 0⟩ ⟨0xAAAAAAAA#32, 0x55555555#32⟩ =
      ⟨0xAAAAAAAA#32, 0, 0x55555555#32, 0⟩ ∧
    Machine.round (Config.default .single) ⟨0, 1, 0, 0⟩ ⟨0, 0⟩ = ⟨1, 0, 0, 0⟩ ∧
    Machine.round (Config.default .single) ⟨0, 0, 0, 1⟩ ⟨0, 0⟩ = ⟨0, 0, 1, 0⟩ := by decide
/-- V26, V28, V29. -/
theorem test_round_values : Machine.round (Config.default .single) ⟨1, 2, 3, 4⟩ ⟨5, 6⟩ =
      ⟨0x00000005#32, 0x68DBA805#32, 0x00000002#32, 0xD2511F53#32⟩ ∧
    Machine.round (Config.default .single) ⟨0x243F6A88#32, 0x85A308D3#32, 0x13198A2E#32, 0x03707344#32⟩
      ⟨0xA4093822#32, 0x299F31D0#32⟩ = ⟨0x2EFD7704#32, 0xAD2D4BA2#32, 0x3728C377#32, 0xB37E0218#32⟩ ∧
    Machine.round { Config.default .single with mult0 := 0xCD9E8D57#32, mult1 := 0xD2511F53#32 } ⟨1, 2, 3, 4⟩ ⟨5, 6⟩ =
      ⟨0x00000005#32, 0x76F35DF9#32, 0x00000002#32, 0xCD9E8D57#32⟩ := by decide
/-- V31, V33. -/
theorem test_bumpkey : bumpkey (Config.default .single) ⟨0xFFFFFFFF#32, 0xFFFFFFFF#32⟩ = ⟨0x9E3779B8#32, 0xBB67AE84#32⟩ ∧
    bumpkey (Config.default .single) ⟨0xA4093822#32, 0x299F31D0#32⟩ = ⟨0x4240B1DB#32, 0xE506E055#32⟩ := by decide
/-- V41. -/
theorem test_philox_zero : philox (Config.default .single) ⟨0, 0, 0, 0⟩ ⟨0, 0⟩ =
    ⟨0x6627E8D5#32, 0xE169C58D#32, 0xBC57AC4C#32, 0x9B00DBD8#32⟩ := by decide
/-- V42. -/
theorem test_philox_ones :
    philox (Config.default .single) ⟨0xFFFFFFFF#32, 0xFFFFFFFF#32, 0xFFFFFFFF#32, 0xFFFFFFFF#32⟩
      ⟨0xFFFFFFFF#32, 0xFFFFFFFF#32⟩ = ⟨0x408F276D#32, 0x41C83B0E#32, 0xA20BC7C6#32, 0x6D5451FD#32⟩ := by decide
/-- V43. -/
theorem test_philox_pi :
    philox (Config.default .single) ⟨0x243F6A88#32, 0x85A308D3#32, 0x13198A2E#32, 0x03707344#32⟩
      ⟨0xA4093822#32, 0x299F31D0#32⟩ = ⟨0xD16CFE09#32, 0x94FDCCEB#32, 0x5001E420#32, 0x24126EA1#32⟩ := by decide
/-- V45: the multipliers exchanged. -/
theorem test_philox_exchanged_multipliers :
    philox { Config.default .single with mult0 := 0xCD9E8D57#32, mult1 := 0xD2511F53#32 } ⟨0, 0, 0, 0⟩ ⟨0, 0⟩ =
      ⟨0x183052D1#32, 0xBAB3FF0D#32, 0xEDC14406#32, 0x99AC9EE8#32⟩ := by decide
/-- V47, V48, V49: other round counts. -/
theorem test_philox_round_counts : philox (withRounds 1) ⟨0, 0, 0, 0⟩ ⟨0, 0⟩ = ⟨0, 0, 0, 0⟩ ∧
    philox (withRounds 2) ⟨0, 0, 0, 0⟩ ⟨0, 0⟩ = ⟨0x9E3779B9#32, 0, 0xBB67AE85#32, 0⟩ ∧
    philox (withRounds 7) ⟨0, 0, 0, 0⟩ ⟨0, 0⟩ = ⟨0x5F6FB709#32, 0x0D893F64#32, 0x4F121F81#32, 0x4F730A48#32⟩ := by decide
/-- V51 to V55. -/
theorem test_inc : inc ⟨0xFFFFFFFF#32, 0, 0, 0⟩ = ⟨0, 1, 0, 0⟩ ∧
    inc ⟨0xFFFFFFFF#32, 0xFFFFFFFF#32, 0xFFFFFFFF#32, 0⟩ = ⟨0, 0, 0, 1⟩ ∧
    inc ⟨0xFFFFFFFF#32, 0xFFFFFFFF#32, 0, 7⟩ = ⟨0, 0, 1, 7⟩ ∧
    inc ⟨5, 0xFFFFFFFF#32, 0xFFFFFFFF#32, 0xFFFFFFFF#32⟩ = ⟨6, 0xFFFFFFFF#32, 0xFFFFFFFF#32, 0xFFFFFFFF#32⟩ ∧
    inc ⟨0xFFFFFFFF#32, 0xFFFFFFFF#32, 0xFFFFFFFF#32, 0xFFFFFFFF#32⟩ = ⟨0, 0, 0, 0⟩ := by decide
/-- V63 to V67. -/
theorem test_skip : skip ⟨1, 0, 0, 0⟩ 0xFFFFFFFFFFFFFFFF#64 = ⟨0, 0, 1, 0⟩ ∧
    skip ⟨1, 0xFFFFFFFF#32, 0, 0⟩ 0xFFFFFFFFFFFFFFFF#64 = ⟨0, 0xFFFFFFFF#32, 1, 0⟩ ∧
    skip ⟨0xFFFFFFFF#32, 0xFFFFFFFF#32, 0xFFFFFFFF#32, 0⟩ 0xFFFFFFFFFFFFFFFF#64 = ⟨0xFFFFFFFE#32, 0xFFFFFFFF#32, 0, 1⟩ ∧
    skip ⟨0xFFFFFFFF#32, 5, 0xFFFFFFFF#32, 0xFFFFFFFF#32⟩ 0xFFFFFFFF00000001#64 = ⟨0, 5, 0, 0⟩ ∧
    skip ⟨0x80000000#32, 0x80000000#32, 5, 6⟩ 0x8000000080000000#64 = ⟨0, 1, 6, 6⟩ := by decide
/-- V63, V66: the lane form, and the prose reading that the contract overrules (90_conflicts.md C1). -/
theorem test_skip_lanes : skipLanes ⟨1, 0, 0, 0⟩ 0xFFFFFFFFFFFFFFFF#64 = ⟨0, 0, 1, 0⟩ ∧
    skipBySnapshots ⟨1, 0, 0, 0⟩ 0xFFFFFFFFFFFFFFFF#64 = ⟨0, 0, 0, 0⟩ ∧
    skipBySnapshots ⟨0xFFFFFFFF#32, 5, 0xFFFFFFFF#32, 0xFFFFFFFF#32⟩ 0xFFFFFFFF00000001#64 =
      ⟨0, 5, 0xFFFFFFFF#32, 0xFFFFFFFF#32⟩ := by decide
/-- V72 to V76. -/
theorem test_skipsub : skipsub ⟨1, 2, 0xFFFFFFFF#32, 0⟩ 1 = ⟨1, 2, 0, 1⟩ ∧
    skipsub ⟨1, 2, 0xFFFFFFFF#32, 0xFFFFFFFF#32⟩ 1 = ⟨1, 2, 0, 0⟩ ∧
    skipsub ⟨1, 2, 3, 4⟩ 0xFFFFFFFFFFFFFFFF#64 = ⟨1, 2, 2, 4⟩ ∧
    skipsub ⟨7, 8, 0x80000000#32, 0x80000000#32⟩ 0x8000000080000000#64 = ⟨7, 8, 0, 1⟩ ∧
    skipsubLanes ⟨9, 9, 1, 0xFFFFFFFF#32⟩ 0xFFFFFFFFFFFFFFFF#64 = ⟨9, 9, 0, 0xFFFFFFFF#32⟩ := by decide

/-! ### The commands, one step each -/

/-- V80. -/
theorem test_init : onNext (exec (.init 0x0123456789ABCDEF#64 7 5) (State.resetWith (Config.default .single))) (fun t =>
    t.key == ⟨0x89ABCDEF#32, 0x01234567#32⟩ && t.ctr == ⟨5, 0, 7, 0⟩ && t.pos == 0 && t.inited && t.responses == [] &&
      t.buf == ⟨0x414DA380#32, 0xB7702AF1#32, 0xCD642C43#32, 0x43DC5E58#32⟩) = true := by decide
/-- P1, command 1, through the channel: from reset with the word presented first. -/
theorem test_init_is_the_first_step_after_reset :
    onNext (step (State.reset.withFetchWord 264 (0x01 * 2 ^ 256))) (fun t =>
      t.inited && t.inputs == [] && t.buf == ⟨0x6627E8D5#32, 0xE169C58D#32, 0xBC57AC4C#32, 0x9B00DBD8#32⟩) = true := by decide
/-- V81. -/
theorem test_nextv : onNext (exec .nextv { ready .vector ⟨5, 0, 7, 0⟩ 0 with
      key := ⟨0x89ABCDEF#32, 0x01234567#32⟩, buf := ⟨0x414DA380#32, 0xB7702AF1#32, 0xCD642C43#32, 0x43DC5E58#32⟩ }) (fun t =>
    t.responses == [0x43DC5E58CD642C43B7702AF1414DA380#128] && t.ctr == ⟨6, 0, 7, 0⟩ &&
      t.buf == ⟨0x0DBE9975#32, 0xD6B757AD#32, 0xB70049D8#32, 0x4540219A#32⟩) = true := by decide
/-- P5 (a), and the wrong variant (R51, R52). -/
theorem test_nextv_refused : exec .nextv (State.resetWith (Config.default .vector)) = .refused .notInitialised ∧
    exec .nextv (ready .single ⟨0, 0, 0, 0⟩ 0) = .refused (.reserved .wrongVariant) := ⟨rfl, rfl⟩
/-- P2, command 6: the cursor wraps. -/
theorem test_nexts_wraps : onNext (exec .nexts (ready .single ⟨5, 0, 2, 0⟩ 3)) (fun t =>
    t.responses == [0x00000000000000000000000067C6BA0F#128] && t.ctr == ⟨6, 0, 2, 0⟩ && t.pos == 0 &&
      t.buf == ⟨0x8C997F8F#32, 0x91C581D4#32, 0x7FD6406F#32, 0x333AAB99#32⟩) = true := by decide
/-- P2, command 5: the cursor moves. -/
theorem test_nexts_moves : onNext (exec .nexts (ready .single ⟨5, 0, 2, 0⟩ 2)) (fun t =>
    t.responses == [0x00000000000000000000000018F84903#128] && t.ctr == ⟨5, 0, 2, 0⟩ && t.pos == 3) = true := by decide
/-- V84. -/
theorem test_skip_keeps_the_cursor : onNext (exec (.skip 2) (ready .single ⟨3, 0, 2, 0⟩ 2)) (fun t =>
    t.ctr == ⟨5, 0, 2, 0⟩ && t.pos == 2 && t.responses == [] &&
      t.buf == ⟨0x4E12134B#32, 0xAC5129FE#32, 0x18F84903#32, 0x67C6BA0F#32⟩) = true := by decide
theorem test_skip_refused : exec (.skip 1) (State.resetWith (Config.default .vector)) = .refused .notInitialised := rfl
/-- V90, before any `INIT` (P4). -/
theorem test_perm : onNext (exec (.perm ⟨1, 2, 3, 4⟩ ⟨5, 6⟩) State.reset) (fun t =>
    t.responses == [0x2D4623D061986739889C87C5C0C839BC#128] && !t.inited) = true := by decide
/-- V92. -/
theorem test_genv : onNext (exec (.genv 1 2 3 2) State.reset) (fun t =>
    t.responses == [0x67C6BA0F18F84903AC5129FE4E12134B#128]) = true := by decide
/-- V95: `offset + index = 2^64`. -/
theorem test_genv_carries : onNext (exec (.genv 0 0 0xFFFFFFFFFFFFFFFF#64 1) State.reset) (fun t =>
    t.responses == [0x83F875F00F19C053F08D6EAA844515E1#128]) = true := by decide
/-- V93. -/
theorem test_gens : onNext (exec (.gens 1 2 3 10) State.reset) (fun t => t.responses == [0x18F84903#128]) = true := by decide
/-- V96. -/
theorem test_gens_last_index : onNext (exec (.gens 0 0 0 0xFFFFFFFFFFFFFFFF#64) State.reset) (fun t =>
    t.responses == [0x31EB18F7#128]) = true := by decide

/-! ### Steps, the channel, text -/

/-- V108 presented: refused as reserved (P5 (b)). -/
theorem test_step_refuses_reserved :
    step (offered .single 0x050000000000000000000000000000000000000000000000000000000000000000#264) =
      .refused (.reserved (.unassignedOpcode 5)) := rfl
/-- R122: the reset input drops what was responded and keeps what is presented after it. -/
theorem test_step_reset :
    onNext (step { ready .vector ⟨1, 0, 0, 0⟩ 0 with inputs := [.reset, .word 0], responses := [7] }) (fun t =>
      !t.inited && t.responses == [] && t.inputs == [.word 0] && t.cfg == Config.default .vector) = true := by decide
/-- P1 with one output: reset, `INIT 0, 0, 0`, `NEXTV` (R127). -/
theorem test_run_result : runResult (Config.default .vector) [encode (.init 0 0 0), encode .nextv] =
    some [0x9B00DBD8BC57AC4CE169C58D6627E8D5#128] := by decide
/-- P5 (a): a refused run has no result (R127). -/
theorem test_run_refused : runResult (Config.default .vector) [encode .nextv] = none := by decide
/-- R60: a line with its comment, hexadecimal and decimal operands; R61: the pseudo-instructions. -/
theorem test_assemble_line : assembleLine "INIT 0x10, 7, 5 ; start".toList = .ok (some (.init 16 7 5)) ∧
    assembleLine "  STEP".toList = .ok (some (.skip 1)) ∧ assembleLine "INIT 9".toList = .ok (some (.init 9 0 0)) ∧
    assembleLine "; only a comment".toList = .ok none := by decide
/-- R60: an operand that does not fit its width is an error, and a mnemonic is in capitals. -/
theorem test_assemble_errors : assembleLine "PERM 1, 2, 3, 4, 5, 0x100000000".toList = .error .operandTooWide ∧
    assembleLine "SKIP 18446744073709551616".toList = .error .operandTooWide ∧
    assembleLine "nexts".toList = .error .unknownMnemonic ∧ assembleLine "SKIP".toList = .error .wrongOperandCount := by decide

/-- Log entries 13 and 17, the model's choices: the order of a line's errors, and the whole text rejected. -/
theorem test_assemble_choices : assembleLine "NOP x".toList = .error .notANumber ∧
    assembleLine "NOP 1".toList = .error .unknownMnemonic ∧
    assembleLine "SKIP 1, 18446744073709551616".toList = .error .wrongOperandCount ∧
    assemble ["STEP".toList, "SKIP".toList, "NOP".toList] = .error .wrongOperandCount := by decide

/-! ### Witnesses: a concrete input that meets the hypotheses of each statement that has any, clause by clause -/

theorem witness_DecodeOfEncodeReturnsTheCommand : Instr.nexts.wellFormed .single = true ∧ Instr.nextv.wellFormed .vector = true ∧
    (Instr.genv 0xFFFFFFFFFFFFFFFF#64 0 0 0xFFFFFFFFFFFFFFFF#64).wellFormed .vector = true := by decide
/-- The seven cases and the eighth, each by a word of V100 to V108; the last clause by the same words. -/
theorem witness_DecoderFollowsTheCases :
    ((fieldsOf (encode (.init 1 2 3))).opc = 0x01#8 ∧ (fieldsOf (encode (.init 1 2 3))).d = 0) ∧
    ((fieldsOf (encode (.skip 1))).opc = 0x02#8 ∧ (fieldsOf (encode (.skip 1))).b = 0) ∧
    (fieldsOf (encode .nexts)).opc = 0x03#8 ∧ (fieldsOf (encode .nextv)).opc = 0x04#8 ∧
    (fieldsOf (encode (.perm ⟨1, 2, 3, 4⟩ ⟨5, 6⟩))).opc = 0x10#8 ∧ (fieldsOf (encode (.genv 1 2 3 4))).opc = 0x11#8 ∧
    (fieldsOf (encode (.gens 1 2 3 4))).opc = 0x12#8 ∧ (fieldsOf 0).opc ≠ 0x01#8 ∧
    decode .single (encode (.gens 1 2 3 4)) = .ok (.gens 1 2 3 4) := by decide
/-- R51 (a), (b) and (c), and an accepted word. -/
theorem witness_ReservedWordsAreRefused :
    (offered .single (packFields ⟨0x13#8, 0, 0, 0, 0⟩)).inputs = [.word (packFields ⟨0x13#8, 0, 0, 0, 0⟩)] ∧
    (offered .single (packFields ⟨0x01#8, 1, 0, 0, 0⟩)).inputs = [.word (packFields ⟨0x01#8, 1, 0, 0, 0⟩)] ∧
    (offered .vector (encode .nexts)).inputs = [.word (encode .nexts)] ∧ (offered .vector (encode .nexts)).cfg.variant = .vector ∧
    (offered .single (encode (.skip 0))).inputs = [.word (encode (.skip 0))] := by decide
theorem witness_StoredFormIsLittleEndian : (0 < 33 ∧ 32 < 33) ∧ (0 < 16 ∧ 15 < 16) := by decide
theorem witness_VariantChangesOnlyTheOutputCommands :
    ((encode (.skip 1)).extractLsb' 256 8 ≠ 0x03#8 ∧ (encode (.skip 1)).extractLsb' 256 8 ≠ 0x04#8) ∧
    (decode .single (encode .nexts) = .ok .nexts ∧ (encode .nexts).extractLsb' 256 8 = 0x03#8) ∧
    (decode .vector (encode .nextv) = .ok .nextv ∧ (encode .nextv).extractLsb' 256 8 = 0x04#8) ∧
    onNext (step (offered .single (encode (.init 0 0 0)))) (fun _ => true) = true := by decide
/-- The default multipliers are odd; `R` may be 1. -/
theorem witness_PhiloxIsRRoundsOfTheKeySchedule : ((withRounds 1).wf = true ∧ (withRounds 1).rounds = 1) ∧
    (Config.default .single).mult0.toNat % 2 = 1 ∧ (Config.default .single).mult1.toNat % 2 = 1 := by decide
/-- The carry runs to the lane named. -/
theorem witness_IncrementIsTheCarryChain :
    (inc ⟨0xFFFFFFFF#32, 0xFFFFFFFF#32, 0xFFFFFFFF#32, 0⟩).l1 ≠ 0xFFFFFFFF#32 ∧
    (inc ⟨0xFFFFFFFF#32, 0xFFFFFFFF#32, 0xFFFFFFFF#32, 0⟩).l2 ≠ 0xFFFFFFFF#32 ∧
    (inc ⟨0xFFFFFFFF#32, 0xFFFFFFFF#32, 0xFFFFFFFF#32, 0⟩).l3 ≠ 0 := by decide
theorem witness_SkipIsRepeatedIncrement :
    (0xFFFFFFFFFFFFFFFF#64).toNat + (0 : DWord).toNat < 2 ^ 64 ∧ (2 : DWord).toNat + (3 : DWord).toNat < 2 ^ 64 := by decide
theorem witness_CounterMovesAreBijectionsThatWrap :
    2 ^ 128 ≤ (val128 ⟨0xFFFFFFFF#32, 0xFFFFFFFF#32, 0xFFFFFFFF#32, 0xFFFFFFFF#32⟩).toNat + (1 : DWord).toNat ∧
    2 ^ 128 ≤ (val128 ⟨0, 0, 0xFFFFFFFF#32, 0xFFFFFFFF#32⟩).toNat + (1 : DWord).toNat * 2 ^ 64 := by decide
/-- The largest offset, and the last counter, without a carry out of lane 1. -/
theorem witness_CounterMovesCombine :
    (0 : Word).toNat + (0 : Word).toNat * 2 ^ 32 + (0xFFFFFFFFFFFFFFFF#64).toNat < 2 ^ 64 ∧
    (0xFFFFFFFE#32).toNat + (0xFFFFFFFF#32).toNat * 2 ^ 32 + 1 < 2 ^ 64 := by decide

theorem witness_NextvReturnsTheBatchAndAdvances :
    ((ready .vector ⟨0, 0, 0, 0⟩ 0).cfg.variant = .vector ∧ (ready .vector ⟨0, 0, 0, 0⟩ 0).inited = true) ∧
    (State.resetWith (Config.default .vector)).cfg.variant = .vector ∧
      (State.resetWith (Config.default .vector)).inited = false := by decide
/-- Cursor 3, cursors 0 and 2, and the uninitialised instance. -/
theorem witness_NextsReturnsTheLaneUnderTheCursor :
    ((ready .single ⟨0, 0, 0, 0⟩ 3).cfg.variant = .single ∧ (ready .single ⟨0, 0, 0, 0⟩ 3).inited = true ∧
      (ready .single ⟨0, 0, 0, 0⟩ 3).pos.toNat = 3) ∧
    (ready .single ⟨0, 0, 0, 0⟩ 0).pos.toNat ≠ 3 ∧ (ready .single ⟨0, 0, 0, 0⟩ 2).pos.toNat ≠ 3 ∧
    State.reset.cfg.variant = .single ∧ State.reset.inited = false := by decide
theorem witness_SkipMovesTheCounterAndRefills :
    ((ready .single ⟨0, 0, 0, 0⟩ 1).inited = true ∧ (ready .single ⟨0, 0, 0, 0⟩ 1).bufferFresh) ∧ State.reset.inited = false ∧
    onNext (exec (.skip 0xFFFFFFFFFFFFFFFF#64) (ready .single ⟨0, 0, 0, 0⟩ 1)) (fun t =>
      onNext (exec (.skip 1) t) (fun u => u.ctr == ⟨0, 0, 1, 0⟩)) = true := by
  refine ⟨⟨rfl, fun _ => rfl⟩, rfl, ?_⟩
  decide
theorem witness_PermRespondsThePermutation : (withRounds 1).rounds = 1 ∧ (Config.default .single).mult0.toNat % 2 = 1 ∧
    (Config.default .single).mult1.toNat % 2 = 1 ∧ (⟨0, 0, 0, 0⟩ : Lanes4) ≠ ⟨0, 0, 0, 1⟩ := by decide
/-- V92, and the boundary V95: `offset + index = 2^64`. -/
theorem witness_GenvRespondsTheIndexedVector :
    (val128 ⟨5, 0, 2, 0⟩).toNat = ((2 : DWord).toNat * 2 ^ 64 + (3 : DWord).toNat + (2 : DWord).toNat) % 2 ^ 128 ∧
    (val128 ⟨0, 0, 1, 0⟩).toNat =
      ((0 : DWord).toNat * 2 ^ 64 + (0xFFFFFFFFFFFFFFFF#64).toNat + (1 : DWord).toNat) % 2 ^ 128 ∧
    (0xFFFFFFFFFFFFFFFE#64).toNat + (1 : DWord).toNat < 2 ^ 64 := by decide
/-- V93, and the last index V96. -/
theorem witness_GensRespondsTheIndexedScalar :
    (val128 ⟨5, 0, 2, 0⟩).toNat = ((2 : DWord).toNat * 2 ^ 64 + (3 : DWord).toNat + (10 : DWord).toNat / 4) % 2 ^ 128 ∧
    (val128 ⟨0xFFFFFFFF#32, 0x3FFFFFFF#32, 0, 0⟩).toNat =
      ((0 : DWord).toNat * 2 ^ 64 + (0 : DWord).toNat + (0xFFFFFFFFFFFFFFFF#64).toNat / 4) % 2 ^ 128 := by decide
/-- The two variants of one parameter set. -/
theorem witness_StatelessCommandsTouchNoState :
    (∃ c k, Instr.perm ⟨1, 2, 3, 4⟩ ⟨5, 6⟩ = .perm c k) ∧ sameParameters (Config.default .single) (Config.default .vector) = true ∧
    State.reset.cfg.rounds = (Config.default .vector).rounds ∧ State.reset.cfg.mult0 = (Config.default .vector).mult0 ∧
    State.reset.cfg.mult1 = (Config.default .vector).mult1 ∧ State.reset.cfg.weyl0 = (Config.default .vector).weyl0 ∧
    State.reset.cfg.weyl1 = (Config.default .vector).weyl1 := by
  refine ⟨⟨_, _, rfl⟩, ?_⟩
  decide
/-- Each of the five commands with a response answers a next state. -/
theorem witness_ResponseWordLayout :
    onNext (exec .nextv (ready .vector ⟨1, 0, 0, 0⟩ 0)) (fun t => t.responses.length == 1) = true ∧
    onNext (exec .nexts (ready .single ⟨1, 0, 0, 0⟩ 3)) (fun t => t.responses.length == 1) = true ∧
    onNext (exec (.perm ⟨1, 2, 3, 4⟩ ⟨5, 6⟩) State.reset) (fun t => t.responses.length == 1) = true ∧
    onNext (exec (.genv 1 2 3 4) State.reset) (fun t => t.responses.length == 1) = true ∧
    onNext (exec (.gens 1 2 3 4) State.reset) (fun t => t.responses.length == 1) = true := by decide
/-- Each of the seven commands answers a next state; the five with a response by the witness above. -/
theorem witness_OneResponsePerOutputCommand :
    onNext (exec (.init 1 2 3) State.reset) (fun t => t.responses.length == 0) = true ∧
    onNext (exec (.skip 3) (ready .vector ⟨1, 0, 0, 0⟩ 0)) (fun t => t.responses.length == 0) = true ∧
    onNext (exec .nexts (ready .single ⟨1, 0, 0, 0⟩ 0)) (fun t => t.responses.length == 1) = true := by decide
/-- The clauses with a premise of their own: a `VECTOR` instance, a cursor that is not 3. -/
theorem witness_OnlyTheNamedRegistersAreWritten :
    ((ready .vector ⟨1, 0, 0, 0⟩ 0).cfg.variant = .vector ∧
      onNext (exec .nextv (ready .vector ⟨1, 0, 0, 0⟩ 0)) (fun t => t.pos == 0) = true) ∧
    ((ready .single ⟨1, 0, 0, 0⟩ 2).pos ≠ 3 ∧
      onNext (exec .nexts (ready .single ⟨1, 0, 0, 0⟩ 2)) (fun t => t.ctr == ⟨1, 0, 0, 0⟩) = true) := by decide
theorem witness_StepRunsTheDecodedCommand :
    (offered .single (encode (.init 1 2 3))).inputs = [.word (encode (.init 1 2 3))] ∧
    decode (offered .single (encode (.init 1 2 3))).cfg.variant (encode (.init 1 2 3)) = .ok (.init 1 2 3) := by decide
theorem witness_WaitingAndTheResetInput : State.reset.inputs = [] ∧
    ({ State.reset with inputs := [.reset, .word 0] } : State).inputs = .reset :: [.word 0] := by decide
theorem witness_CommandsBeforeInitAreRefused :
    ((State.resetWith (Config.default .vector)).inited = false ∧
      (State.resetWith (Config.default .vector)).cfg.variant = .vector) ∧
    (State.reset.inited = false ∧ State.reset.cfg.variant = .single) ∧
    ((offered .single (encode (.skip 1))).inited = false ∧
      (offered .single (encode (.skip 1))).inputs = [.word (encode (.skip 1))] ∧
      decode .single (encode (.skip 1)) = .ok (.skip 1)) := by decide
/-- Both situations, their absence, and a run that is refused. -/
theorem witness_OnlyTwoSituationsAreRefused :
    (decode .single 0 = .error (.unassignedOpcode 0) ∧ (offered .single 0).inputs = [.word 0]) ∧
    ((offered .single (encode .nexts)).inited = false ∧ decode .single (encode .nexts) = .ok .nexts) ∧
    onNext (step (offered .single (encode (.init 0 0 0)))) (fun _ => true) = true ∧
    Host.Core.run Sys2Proof.core 1 (offered .single 0) = .refused (.reserved (.unassignedOpcode 0)) := by
  refine ⟨by decide, by decide, by decide, rfl⟩
theorem witness_BufferInvariantIsKept : (ready .vector ⟨5, 0, 2, 0⟩ 0).bufferFresh ∧
    onNext (step { ready .vector ⟨5, 0, 2, 0⟩ 0 with inputs := [.word (encode .nextv)] }) (fun t => t.inited) = true ∧
    Host.Core.run Sys2Proof.core 0 { State.resetWith (Config.default .single) with inputs := [.reset] } =
      .next { State.resetWith (Config.default .single) with inputs := [.reset] } := by
  refine ⟨fun _ => rfl, ?_, rfl⟩
  decide
theorem witness_ConfigurationNeverChanges :
    onNext (step { ready .single ⟨5, 0, 2, 0⟩ 3 with inputs := [.word (encode .nexts)] }) (fun t => t.cfg.wf) = true ∧
    (ready .single ⟨5, 0, 2, 0⟩ 3).cfg.wf = true := by decide
/-- A run of one step whose host presents neither a reset nor an `INIT`. -/
theorem witness_KeyStaysAsInitWroteIt :
    (∀ e ∈ ({ ready .single ⟨5, 0, 2, 0⟩ 3 with inputs := [.word (encode .nexts)] } : State).inputs,
      ∃ w, e = .word w ∧ w.extractLsb' 256 8 ≠ 0x01#8) ∧
    ∃ t, Host.Core.run Sys2Proof.core 1 { ready .single ⟨5, 0, 2, 0⟩ 3 with inputs := [.word (encode .nexts)] } = .next t := by
  refine ⟨?_, ⟨_, rfl⟩⟩
  intro e he
  exact ⟨encode .nexts, List.mem_singleton.mp he, by decide⟩
/-- Nothing presented, a reset, an `INIT`, another command. -/
theorem witness_InitedIsClearedByResetAndSetByInit : onNext (step State.reset) (fun t => !t.inited) = true ∧
    onNext (step { ready .single ⟨0, 0, 0, 0⟩ 0 with inputs := [.reset] }) (fun t => !t.inited) = true ∧
    onNext (step (offered .single (encode (.init 0 0 0)))) (fun t => t.inited) = true ∧
    onNext (step (offered .single (encode (.genv 0 0 0 0)))) (fun t => !t.inited) = true := by decide
/-- Two states alike but for their registers, and a run of each kind. -/
theorem witness_UnwrittenRegistersAreNeverSeen :
    (offered .vector (encode (.init 1 2 3))).alike { offered .vector (encode (.init 1 2 3)) with key := ⟨7, 7⟩, pos := 1 } ∧
    onNext (step (offered .vector (encode (.init 1 2 3)))) (fun t => t.inited) = true ∧
    Host.Core.run Sys2Proof.core 1 (offered .vector (encode .nextv)) = .refused .notInitialised := by
  refine ⟨⟨rfl, rfl, rfl, rfl, fun h => nomatch h⟩, ?_, rfl⟩
  decide
/-- Two instances with different histories, the same configuration and the same input. -/
theorem witness_InitErasesHistory :
    let s := (ready .single ⟨9, 9, 9, 9⟩ 2).given [.init 1 2 3, .nexts]
    let t := State.reset.given [.init 1 2 3, .nexts]
    s.cfg = t.cfg ∧ s.inputs = .word (encode (.init 1 2 3)) :: [encode .nexts].map HostEvent.word ∧ t.inputs = s.inputs ∧
      ∃ u, Host.Core.run Sys2Proof.core 2 s = .next u := ⟨rfl, rfl, rfl, _, rfl⟩
theorem witness_DutifulHostsRunsComplete :
    hostKeepsDuties .vector false [.word (encode (.init 1 2 3)), .word (encode .nextv), .reset, .word (encode (.genv 1 2 3 4))] = true ∧
    hostKeepsDuties .vector false [.word (encode .nextv)] = false := by decide
/-- The premises of the stream statements are the variant; with no output (`m = 0`) and with four they run. -/
theorem witness_VectorStreamIsTheCounterSequence : (State.resetWith (Config.default .vector)).cfg.variant = .vector := by decide
theorem witness_ScalarStreamIsTheFlattenedSequence : (State.resetWith (Config.default .single)).cfg.variant = .single := by decide
theorem witness_SkipShiftsTheStream : (State.resetWith (Config.default .vector)).cfg.variant = .vector ∧
    (State.resetWith (Config.default .single)).cfg.variant = .single := by decide
theorem witness_SkipEquivalence : (ready .vector ⟨0, 0, 0, 0⟩ 0).cfg.variant = .vector ∧
    (ready .single ⟨0, 0, 0, 0⟩ 0).cfg.variant = .single := by decide
theorem witness_StatelessAgreesWithStateful : (Config.default .vector).variant = .vector ∧
    (Config.default .single).variant = .single := by decide
/-- The last vector of the segment, and the first past it (V87). -/
theorem witness_StreamLeavesItsSegment : inSegment 0xFFFFFFFFFFFFFFFE#64 1 ∧ ¬ inSegment 0xFFFFFFFFFFFFFFFF#64 1 ∧
    (0xFFFFFFFFFFFFFFFF#64).toNat + 1 = 2 ^ 64 := by decide
theorem witness_StreamsOfDifferentSubsequencesAreDisjoint :
    ((3 : DWord) ≠ 4 ∧ inSegment 0xFFFFFFFFFFFFFFFF#64 0 ∧ inSegment 0 7) ∧
    ((Config.default .vector).mult0.toNat % 2 = 1 ∧ (Config.default .vector).mult1.toNat % 2 = 1) ∧
    (5 : DWord).toNat < (9 : DWord).toNat := by decide
theorem witness_CounterWrapsToZero :
    ((ready .vector ⟨0xFFFFFFFF#32, 0xFFFFFFFF#32, 0xFFFFFFFF#32, 0xFFFFFFFF#32⟩ 0).inited = true ∧
      (ready .vector ⟨0xFFFFFFFF#32, 0xFFFFFFFF#32, 0xFFFFFFFF#32, 0xFFFFFFFF#32⟩ 0).cfg.variant = .vector) ∧
    (ready .single ⟨0xFFFFFFFF#32, 0xFFFFFFFF#32, 0xFFFFFFFF#32, 0xFFFFFFFF#32⟩ 3).cfg.variant = .single ∧
    (ready .single ⟨0xFFFFFFFF#32, 0xFFFFFFFF#32, 0xFFFFFFFF#32, 0xFFFFFFFF#32⟩ 3).pos = 3 := by decide
/-- The smallest set that builds and one that each condition refuses. -/
theorem witness_BadParameterSetsDoNotBuild :
    Config.build 4 32 1 1 1 1 1 .vector = some ⟨.vector, 1, 1, 1, 1, 1⟩ ∧ (4 = 4 ∧ 32 = 32 ∧ 0 < 1) ∧
    (2 ≠ 4 ∨ 32 ≠ 32 ∨ 10 = 0) ∧ (4 ≠ 4 ∨ 64 ≠ 32 ∨ 10 = 0) ∧ (4 ≠ 4 ∨ 32 ≠ 32 ∨ 0 = 0) := by decide
/-- Instance 0 would be refused (P5 (a)), instance 1 runs. -/
def twoInstances : System :=
  [.running (offered .vector (encode .nextv)), .running (offered .vector (encode (.genv 1 2 3 2)))]
/-- R41, R110: the refusal stops instance 0 alone, and instance 1 then answers V92. -/
theorem test_refusal_stops_one_instance :
    (System.runSchedule [0, 1] twoInstances)[0]? = some (.stopped (Config.default .vector) .notInitialised) ∧
    ∃ t, (System.runSchedule [0, 1] twoInstances)[1]? = some (.running t) ∧
      t.responses = [0x67C6BA0F18F84903AC5129FE4E12134B#128] := by
  refine ⟨rfl, _, rfl, ?_⟩
  decide
/-- An instance that answers next and one that is refused, each beside another. -/
theorem witness_InstancesDoNotInteract : 1 ≠ 0 ∧
    twoInstances[1]? = some (.running (offered .vector (encode (.genv 1 2 3 2)))) ∧
    (∃ t, step (offered .vector (encode (.genv 1 2 3 2))) = .next t) ∧
    twoInstances[0]? = some (.running (offered .vector (encode .nextv))) ∧
    step (offered .vector (encode .nextv)) = .refused .notInitialised := ⟨by decide, rfl, ⟨_, rfl⟩, rfl, rfl⟩
/-- A running and a stopped instance, and two schedules with the same counts. -/
theorem witness_EveryScheduleGivesTheSameRuns :
    twoInstances[1]? = some (.running (offered .vector (encode (.genv 1 2 3 2)))) ∧
    (System.stepAt 0 twoInstances)[0]? = some (.stopped (Config.default .vector) .notInitialised) ∧
    ∀ k, [0, 1].count k = [1, 0].count k :=
  ⟨rfl, rfl, fun k => List.Perm.count_eq (List.Perm.swap 1 0 []) k⟩
/-- The largest operand that fits, the smallest that does not, at the last place of each command; no other mnemonic. -/
theorem witness_PseudoInstructionsExpand : 18446744073709551615 < 2 ^ 64 ∧ 4294967295 < 2 ^ 32 ∧
    (∃ x ∈ [0, 0, 18446744073709551616], 2 ^ 64 ≤ x) ∧ (∃ x ∈ [18446744073709551616], 2 ^ 64 ≤ x) ∧
    (∃ x ∈ [0, 0, 0, 18446744073709551616], 2 ^ 64 ≤ x) ∧ (∃ x ∈ [0, 0, 0, 0, 0, 4294967296], 2 ^ 32 ≤ x) ∧
    "NOP".toList ∉ ["INIT".toList, "SKIP".toList, "NEXTS".toList, "NEXTV".toList, "PERM".toList, "GENV".toList, "GENS".toList,
      "STEP".toList] := by decide

end Sys2Proof.Tests
end

section
/-! SUPPORT. What every command and every step leaves as it was, and what becomes of `INITED` (spec/10_state.md R19, R21, R22). -/

namespace Sys2Proof.Machine

/-- No command writes the configuration (R22) or takes an input (R45), and only `INIT` writes `INITED` (R19). -/
theorem exec_keeps_cfg_inputs_inited {i : Instr} {s t : State} (h : exec i s = .next t) :
    t.cfg = s.cfg ∧ t.inputs = s.inputs ∧ t.inited = (s.inited || setsInited i) := by
  obtain ⟨seed, sub, off, rfl, rfl⟩ | ⟨off, rfl, -, rfl⟩ | ⟨rfl, -, -, -, rfl⟩ | ⟨rfl, -, -, -, rfl⟩ | ⟨rfl, -, -, rfl⟩ |
    ⟨c, k, rfl, rfl⟩ | ⟨seed, sub, off, j, rfl, rfl⟩ | ⟨seed, sub, off, j, rfl, rfl⟩ := exec_next_cases h
  all_goals simp [setsInited]

theorem exec_cfg {i : Instr} {s t : State} (h : exec i s = .next t) : t.cfg = s.cfg := by
  obtain ⟨hcfg, -, -⟩ := exec_keeps_cfg_inputs_inited h
  exact hcfg

theorem exec_inputs {i : Instr} {s t : State} (h : exec i s = .next t) : t.inputs = s.inputs := by
  obtain ⟨-, hinputs, -⟩ := exec_keeps_cfg_inputs_inited h
  exact hinputs

theorem exec_inited {i : Instr} {s t : State} (h : exec i s = .next t) : t.inited = (s.inited || setsInited i) := by
  obtain ⟨-, -, hinited⟩ := exec_keeps_cfg_inputs_inited h
  exact hinited

/-- A `VECTOR` engine has no cursor, and no command writes the field (R18): `NEXTS` is not accepted there, and `INIT`
clears the cursor of a `SINGLE` engine only. -/
theorem exec_pos_of_vector {i : Instr} {s t : State} (h : exec i s = .next t) (hv : s.cfg.variant = .vector) :
    t.pos = s.pos := by
  obtain ⟨seed, sub, off, rfl, rfl⟩ | ⟨off, rfl, -, rfl⟩ | ⟨rfl, hs, -⟩ | ⟨rfl, hs, -⟩ | ⟨rfl, -, -, rfl⟩ |
    ⟨c, k, rfl, rfl⟩ | ⟨seed, sub, off, j, rfl, rfl⟩ | ⟨seed, sub, off, j, rfl, rfl⟩ := exec_next_cases h
  · simp [hv]
  · rfl
  · simp [hv] at hs
  · simp [hv] at hs
  all_goals rfl

/-- The commands that set `INITED` are those of opcode `0x01` (R47, R89). -/
theorem setsInited_eq_opcode (i : Instr) : setsInited i = ((encodeFields i).opc == 0x01#8) := by
  cases i <;> rfl

/-- The fields of an accepted word are its command's (R55). -/
theorem encodeFields_of_decode {v : Variant} {w : CommandWord} {i : Instr} (h : decode v w = .ok i) :
    encodeFields i = fieldsOf w := (decodeFields_ok h).1

/-- An accepted word sets `INITED` when its opcode is `INIT`'s. -/
theorem setsInited_of_decode {v : Variant} {w : CommandWord} {i : Instr} (h : decode v w = .ok i) :
    setsInited i = (w.extractLsb' 256 8 == 0x01#8) := by
  rw [setsInited_eq_opcode, encodeFields_of_decode h, fieldsOf]

/-- No step writes the configuration, the reset input included (R22, R122). -/
theorem step_cfg {s t : State} (h : step s = .next t) : t.cfg = s.cfg := by
  obtain ⟨-, rfl⟩ | ⟨later, -, rfl⟩ | ⟨w, later, i, -, -, hx⟩ := step_next_cases h
  · rfl
  · rfl
  · exact exec_cfg (s := { s with inputs := later }) hx

/-- Settles O30: the three clauses for every command by `exec_cfg`, `exec_inputs` and `exec_pos_of_vector`, the rest by what
the meaning answers. -/
theorem onlyTheNamedRegistersAreWritten : Obligations.OnlyTheNamedRegistersAreWritten := by
  intro i s t h
  refine ⟨exec_cfg h, exec_inputs h, exec_pos_of_vector h, ?_⟩
  obtain ⟨seed, sub, off, rfl, rfl⟩ | ⟨off, rfl, -, rfl⟩ | ⟨rfl, -, -, hp, rfl⟩ | ⟨rfl, -, -, -, rfl⟩ | ⟨rfl, -, -, rfl⟩ |
    ⟨c, k, rfl, rfl⟩ | ⟨seed, sub, off, j, rfl, rfl⟩ | ⟨seed, sub, off, j, rfl, rfl⟩ := exec_next_cases h
  · simp
  · simp
  · exact ⟨rfl, rfl, fun hne => absurd hp hne⟩
  all_goals simp

/-- Settles O37. -/
theorem configurationNeverChanges : Obligations.ConfigurationNeverChanges := fun _ _ h =>
  ⟨step_cfg h, fun hwf => by rw [step_cfg h, hwf]⟩

/-- Settles O39: by the oldest input; a command's share is `exec_inited`. -/
theorem initedIsClearedByResetAndSetByInit : Obligations.InitedIsClearedByResetAndSetByInit := by
  refine ⟨State.resetWith_inited, fun s t h => ?_⟩
  obtain ⟨hin, rfl⟩ | ⟨later, hin, rfl⟩ | ⟨w, later, i, hin, hd, hx⟩ := step_next_cases h
  · simp [hin]
  · simp [hin]
  · simp [hin, exec_inited hx, setsInited_of_decode hd]

end Sys2Proof.Machine
end

section
/-! SUPPORT. The buffer invariant (spec/10_state.md R20) and what reset leaves (R29). -/

namespace Sys2Proof.Machine

/-- A state with `INITED = 0` keeps the invariant: it speaks of initialised engines only. -/
theorem State.bufferFresh_of_not_inited {s : State} (h : s.inited = false) : s.bufferFresh := fun hi => by
  simp [h] at hi

theorem State.resetWith_bufferFresh (cfg : Config) : (State.resetWith cfg).bufferFresh :=
  State.bufferFresh_of_not_inited rfl

/-- Every command keeps the invariant: one that writes `CTR` or `KEY` refills the buffer after it, and any other leaves all
three registers and `INITED` alone (R20). -/
theorem exec_keeps_bufferFresh {i : Instr} {s t : State} (hs : s.bufferFresh) (h : exec i s = .next t) :
    t.bufferFresh := by
  obtain ⟨seed, sub, off, rfl, rfl⟩ | ⟨off, rfl, -, rfl⟩ | ⟨rfl, -, -, -, rfl⟩ | ⟨rfl, -, -, -, rfl⟩ | ⟨rfl, -, -, rfl⟩ |
    ⟨c, k, rfl, rfl⟩ | ⟨seed, sub, off, j, rfl, rfl⟩ | ⟨seed, sub, off, j, rfl, rfl⟩ := exec_next_cases h
  · exact fun _ => by simp
  · exact fun _ => rfl
  · exact fun _ => rfl
  · exact hs
  · exact fun _ => rfl
  all_goals exact hs

/-- Every step keeps the invariant (R20). -/
theorem step_keeps_bufferFresh (s t : State) (hs : s.bufferFresh) (h : step s = .next t) : t.bufferFresh := by
  obtain ⟨-, rfl⟩ | ⟨later, -, rfl⟩ | ⟨w, later, i, -, -, hx⟩ := step_next_cases h
  · exact hs
  · exact State.bufferFresh_of_not_inited rfl
  · exact exec_keeps_bufferFresh (s := { s with inputs := later }) hs hx

/-- Settles O36: reset has the invariant, a step keeps it, and so does a run. -/
theorem bufferInvariantIsKept : Obligations.BufferInvariantIsKept :=
  ⟨State.resetWith_bufferFresh, step_keeps_bufferFresh, fun cfg inputs _ _ hr =>
    runSteps_keeps (s := { State.resetWith cfg with inputs := inputs }) step_keeps_bufferFresh
      (State.resetWith_bufferFresh cfg) hr⟩

/-- Settles O33. -/
theorem resetLeavesTheFlagClear : Obligations.ResetLeavesTheFlagClear :=
  ⟨fun cfg => ⟨State.resetWith_inited cfg, State.resetWith_inputs cfg, State.resetWith_responses cfg, State.resetWith_cfg cfg⟩,
    ⟨by decide, State.resetWith_bufferFresh _⟩, rfl⟩

end Sys2Proof.Machine
end

section
/-! SUPPORT. Alike states answer alike (spec/10_state.md R25, R29; spec/43_stateful_commands.md R97): a relation on outcomes that
every meaning, every step and every run keeps. -/

namespace Sys2Proof.Machine

/-- Two outcomes that a host cannot tell apart: alike next states, or the same refusal. There are no faults (R106). -/
inductive OutcomesAlike : Host.Outcome State Fault Refusal → Host.Outcome State Fault Refusal → Prop where
  | next {s t : State} (h : s.alike t) : OutcomesAlike (.next s) (.next t)
  | refused (r : Refusal) : OutcomesAlike (.refused r) (.refused r)

theorem OutcomesAlike.exists_next {s : State} {o : Host.Outcome State Fault Refusal} (h : OutcomesAlike (.next s) o) :
    ∃ t, o = .next t ∧ s.alike t := by
  cases h with
  | next h => exact ⟨_, rfl, h⟩

theorem OutcomesAlike.eq_refused {r : Refusal} {o : Host.Outcome State Fault Refusal} (h : OutcomesAlike (.refused r) o) :
    o = .refused r := by
  cases h with
  | refused r => rfl

theorem State.alike.refl (s : State) : s.alike s := ⟨rfl, rfl, rfl, rfl, fun _ => ⟨rfl, rfl, rfl, fun _ => rfl⟩⟩

theorem State.alike.cfg_eq {s t : State} (h : s.alike t) : s.cfg = t.cfg := by
  obtain ⟨hcfg, -⟩ := h
  exact hcfg

theorem State.alike.inputs_eq {s t : State} (h : s.alike t) : s.inputs = t.inputs := by
  obtain ⟨-, -, hinputs, -⟩ := h
  exact hinputs

/-- What an initialised engine of either variant shows. -/
theorem State.alike.registers_eq {s t : State} (h : s.alike t) (hi : s.inited = true) :
    s.ctr = t.ctr ∧ s.key = t.key ∧ s.buf = t.buf := by
  obtain ⟨-, -, -, -, hregs⟩ := h
  obtain ⟨hctr, hkey, hbuf, -⟩ := hregs hi
  exact ⟨hctr, hkey, hbuf⟩

/-- An initialised `SINGLE` engine hides nothing. -/
theorem State.alike.eq_of_single {s t : State} (h : s.alike t) (hi : s.inited = true) (hv : s.cfg.variant = .single) :
    s = t := by
  obtain ⟨hcfg, hinited, hinputs, hresponses, hregs⟩ := h
  obtain ⟨hctr, hkey, hbuf, hpos⟩ := hregs hi
  exact State.eq_of_fields s t hcfg hctr hkey hbuf (hpos hv) hinited hinputs hresponses

/-- Alike states to which the host goes on to present the same. -/
theorem State.alike.withInputs {s t : State} (h : s.alike t) (later : List HostEvent) :
    State.alike { s with inputs := later } { t with inputs := later } := by
  obtain ⟨hcfg, hinited, -, hresponses, hregs⟩ := h
  exact ⟨hcfg, hinited, rfl, hresponses, hregs⟩

theorem State.alike.respond {s t : State} (h : s.alike t) (r : ResponseWord) : (s.respond r).alike (t.respond r) := by
  obtain ⟨hcfg, hinited, hinputs, hresponses, hregs⟩ := h
  exact ⟨hcfg, hinited, hinputs, by simp [hresponses], hregs⟩

theorem State.advance_eq_setCtr_refill (s : State) : s.advance = (s.setCtr (inc s.ctr)).refill := rfl

/-- A new counter and the prefetch that follows it (R90 to R92). -/
theorem State.alike.setCtr_refill {s t : State} (h : s.alike t) (c : Lanes4) :
    (s.setCtr c).refill.alike (t.setCtr c).refill := by
  obtain ⟨hcfg, hinited, hinputs, hresponses, hregs⟩ := h
  refine ⟨hcfg, hinited, hinputs, hresponses, fun hi => ?_⟩
  obtain ⟨-, hkey, -, hpos⟩ := hregs hi
  exact ⟨rfl, hkey, by simp [hcfg, hkey], hpos⟩

/-- `INIT` overwrites every register a later command reads (R89, R98). -/
theorem exec_init_alike {s t : State} (h : s.alike t) (seed sub off : DWord) :
    OutcomesAlike (exec (.init seed sub off) s) (exec (.init seed sub off) t) := by
  obtain ⟨hcfg, -, hinputs, hresponses, -⟩ := h
  rw [exec_init, exec_init]
  refine .next ⟨by simpa, rfl, by simpa, by simpa, fun _ => ⟨by simp, by simp, by simp [hcfg], fun hv => ?_⟩⟩
  have hs : s.cfg.variant = .single := by simpa using hv
  simp [hs, ← hcfg]

/-- Both engines pass the guard of R97, or both are refused. -/
theorem whenInited_alike {s t : State} {run run' : State → Host.Outcome State Fault Refusal} (h : s.alike t)
    (hrun : s.inited = true → OutcomesAlike (run s) (run' t)) : OutcomesAlike (whenInited s run) (whenInited t run') := by
  obtain ⟨-, hinited, -⟩ := h
  cases hi : s.inited with
  | false =>
    rw [whenInited_of_not hi, whenInited_of_not (hinited ▸ hi)]
    exact .refused _
  | true =>
    rw [whenInited_of_inited hi, whenInited_of_inited (hinited ▸ hi)]
    exact hrun hi

/-- Both engines are of the command's variant, or both are refused (R51, R52). -/
theorem whenVariant_alike {v : Variant} {s t : State} {run run' : State → Host.Outcome State Fault Refusal} (h : s.alike t)
    (hrun : s.cfg.variant = v → OutcomesAlike (run s) (run' t)) :
    OutcomesAlike (whenVariant v s run) (whenVariant v t run') := by
  obtain ⟨hcfg, -⟩ := h
  by_cases hv : s.cfg.variant = v
  · rw [whenVariant_of_eq hv, whenVariant_of_eq (hcfg ▸ hv)]
    exact hrun hv
  · rw [whenVariant_of_ne hv, whenVariant_of_ne (hcfg ▸ hv)]
    exact .refused _

theorem exec_skip_alike {s t : State} (h : s.alike t) (off : DWord) :
    OutcomesAlike (exec (.skip off) s) (exec (.skip off) t) := by
  simp only [exec, execSkip]
  refine whenInited_alike h fun hi => ?_
  obtain ⟨hctr, -⟩ := h.registers_eq hi
  rw [← hctr]
  exact .next (h.setCtr_refill _)

theorem exec_nexts_alike {s t : State} (h : s.alike t) : OutcomesAlike (exec .nexts s) (exec .nexts t) := by
  simp only [exec, execNexts]
  refine whenVariant_alike h fun hv => whenInited_alike h fun hi => ?_
  rw [← h.eq_of_single hi hv]
  exact .next (State.alike.refl _)

theorem exec_nextv_alike {s t : State} (h : s.alike t) : OutcomesAlike (exec .nextv s) (exec .nextv t) := by
  simp only [exec, execNextv]
  refine whenVariant_alike h fun _ => whenInited_alike h fun hi => ?_
  obtain ⟨hctr, -, hbuf⟩ := h.registers_eq hi
  rw [State.advance_eq_setCtr_refill, State.advance_eq_setCtr_refill, ← hctr, ← hbuf]
  exact .next ((h.setCtr_refill _).respond _)

/-- Every command answers alike states alike. A stateless one reads the configuration and its operands only (R103). -/
theorem exec_alike {s t : State} (h : s.alike t) (i : Instr) : OutcomesAlike (exec i s) (exec i t) := by
  cases i with
  | init seed sub off => exact exec_init_alike h seed sub off
  | skip off => exact exec_skip_alike h off
  | nexts => exact exec_nexts_alike h
  | nextv => exact exec_nextv_alike h
  | perm c k =>
    rw [exec_perm, exec_perm, h.cfg_eq]
    exact .next (h.respond _)
  | genv seed sub off j =>
    rw [exec_genv, exec_genv, h.cfg_eq]
    exact .next (h.respond _)
  | gens seed sub off j =>
    rw [exec_gens, exec_gens, h.cfg_eq]
    exact .next (h.respond _)

/-- Reset leaves what the configuration says and nothing else (R122). -/
theorem State.afterReset_eq_of_cfg {s t : State} (h : s.cfg = t.cfg) (later : List HostEvent) :
    s.afterReset later = t.afterReset later := by
  rw [State.afterReset, State.afterReset, h]

/-- Every step answers alike states alike. -/
theorem step_alike {s t : State} (h : s.alike t) : OutcomesAlike (step s) (step t) := by
  have hcfg := h.cfg_eq
  have hinputs := h.inputs_eq
  cases hin : s.inputs with
  | nil =>
    rw [step_waiting hin, step_waiting (hinputs ▸ hin)]
    exact .next h
  | cons e later =>
    cases e with
    | reset =>
      rw [step_reset hin, step_reset (hinputs ▸ hin), State.afterReset_eq_of_cfg hcfg]
      exact .next (State.alike.refl _)
    | word w =>
      cases hd : decode s.cfg.variant w with
      | ok i =>
        rw [step_command hin hd, step_command (hinputs ▸ hin) (hcfg ▸ hd)]
        exact exec_alike (h.withInputs later) i
      | error why =>
        rw [step_reserved hin hd, step_reserved (hinputs ▸ hin) (hcfg ▸ hd)]
        exact .refused _

/-- Every run answers alike states alike. -/
theorem runSteps_alike {s t : State} (h : s.alike t) (k : Nat) :
    OutcomesAlike (Host.Core.run Sys2Proof.core k s) (Host.Core.run Sys2Proof.core k t) := by
  induction k generalizing s t with
  | zero => exact .next h
  | succ k ih =>
    have hstep := step_alike h
    generalize hs : step s = a at hstep
    generalize ht : step t = b at hstep
    cases hstep with
    | next h' =>
      rw [runSteps_next hs, runSteps_next ht]
      exact ih h'
    | refused r =>
      rw [runSteps_refused hs, runSteps_refused ht]
      exact .refused r

/-- Settles O40: the two runs end in outcomes that are alike, whichever way the first ends. -/
theorem unwrittenRegistersAreNeverSeen : Obligations.UnwrittenRegistersAreNeverSeen := fun s t h k => by
  have hrun : OutcomesAlike (Host.Core.run Sys2Proof.core k s) (Host.Core.run Sys2Proof.core k t) := runSteps_alike h k
  refine ⟨fun s' hs => ?_, fun r hr => ?_⟩
  · rw [hs] at hrun
    exact hrun.exists_next
  · rw [hr] at hrun
    exact hrun.eq_refused

end Sys2Proof.Machine
end

section
/-! SUPPORT. A system is the product of its instances (spec/20_memory.md R41; spec/60_exceptions.md R110, R119): a run of a system,
read at one index, is that instance's own steps, counted by the schedule. -/

namespace Sys2Proof.Machine

/-- Settles O31. -/
theorem stepRunsTheDecodedCommand : Obligations.StepRunsTheDecodedCommand := fun _ _ _ _ hin hd => step_command hin hd

theorem System.stepAt_getElem?_self (k : Nat) (sys : System) :
    (System.stepAt k sys)[k]? = sys[k]?.map Instance.step := by
  simp [System.stepAt_getElem?]

theorem System.stepAt_getElem?_of_ne {j k : Nat} (h : j ≠ k) (sys : System) : (System.stepAt j sys)[k]? = sys[k]? := by
  simp [System.stepAt_getElem?, h]

/-- Steps of two instances may be exchanged: at each index at most one of the two does anything. -/
theorem System.stepAt_comm {j k : Nat} (h : j ≠ k) (sys : System) :
    System.stepAt k (System.stepAt j sys) = System.stepAt j (System.stepAt k sys) := by
  refine List.ext_getElem? fun m => ?_
  by_cases hk : k = m
  · have hj : j ≠ m := hk ▸ h
    simp [System.stepAt_getElem?, hj]
  · simp [System.stepAt_getElem?, hk]

/-- Settles O53. -/
theorem instancesDoNotInteract : Obligations.InstancesDoNotInteract := by
  intro sys j k hjk
  refine ⟨System.stepAt_getElem?_of_ne hjk sys, System.stepAt_comm hjk sys, System.stepAt_length j sys, fun s hs => ?_⟩
  rw [System.stepAt_getElem?_self, hs, Option.map_some]
  exact ⟨fun t ht => by rw [Instance.step_running_next ht], fun r hr => by rw [Instance.step_running_refused hr]⟩

/-- A refused instance stays refused (R110). -/
theorem Instance.iterate_step_stopped (cfg : Config) (why : Refusal) (n : Nat) :
    Instance.step^[n] (.stopped cfg why) = .stopped cfg why :=
  Function.iterate_fixed (Instance.step_stopped cfg why) n

/-- Steps of a running instance are a run of its own machine, with the configuration kept for a refusal (R22, R127). -/
theorem Instance.iterate_step_running (n : Nat) (s : State) :
    Instance.step^[n] (.running s) = .ofOutcome s.cfg (Host.Core.run Sys2Proof.core n s) := by
  induction n generalizing s with
  | zero => rfl
  | succ n ih =>
    rw [Function.iterate_succ_apply]
    cases hs : Machine.step s with
    | next t => rw [Instance.step_running_next hs, ih, runSteps_next hs, step_cfg hs]
    | fault f => exact nomatch f
    | refused r =>
      rw [Instance.step_running_refused hs, Instance.iterate_step_stopped, runSteps_refused hs]
      exact (Instance.ofOutcome_refused s.cfg r).symm

/-- Everything a schedule does, read at one index: as many steps of that instance as the schedule names it. -/
theorem System.runSchedule_getElem? (schedule : List Nat) (sys : System) (k : Nat) :
    (System.runSchedule schedule sys)[k]? = sys[k]?.map Instance.step^[schedule.count k] := by
  induction schedule generalizing sys with
  | nil => simp [System.runSchedule]
  | cons j later ih =>
    rw [System.runSchedule, ih]
    by_cases hj : j = k
    · subst hj
      rw [System.stepAt_getElem?_self, Option.map_map, List.count_cons_self, Function.iterate_succ]
    · rw [System.stepAt_getElem?_of_ne hj, List.count_cons_of_ne hj]

/-- Settles O56: all three clauses by `System.runSchedule_getElem?`, which sees of a schedule its counts only. -/
theorem everyScheduleGivesTheSameRuns : Obligations.EveryScheduleGivesTheSameRuns := by
  refine fun sys schedule => ⟨fun k s hs => ?_, fun k cfg r hr => ?_, fun other hcount => List.ext_getElem? fun k => ?_⟩
  · rw [System.runSchedule_getElem?, hs, Option.map_some, Instance.iterate_step_running]
  · rw [System.runSchedule_getElem?, hr, Option.map_some, Instance.iterate_step_stopped]
  · rw [System.runSchedule_getElem?, System.runSchedule_getElem?, hcount k]

end Sys2Proof.Machine
end

section
/-! SUPPORT. What the decoder answers (spec/30_encoding.md R50 to R55): one lemma per case of R55, and that a word is accepted
exactly when it is the word of a command that the variant accepts. -/

namespace Sys2Proof

open Sys2Proof.Machine

/-! ### The seven cases of R55, over the fields -/

theorem decodeFields_init (v : Variant) {f : Fields} (ho : f.opc = 0x01#8) (hd : f.d = 0) :
    decodeFields v f = .ok (.init f.a f.b f.c) := by
  simp [decodeFields, ho, hd]

theorem decodeFields_skip (v : Variant) {f : Fields} (ho : f.opc = 0x02#8) (hb : f.b = 0) (hc : f.c = 0) (hd : f.d = 0) :
    decodeFields v f = .ok (.skip f.a) := by
  simp [decodeFields, ho, hb, hc, hd]

theorem decodeFields_nexts {f : Fields} (ho : f.opc = 0x03#8) (ha : f.a = 0) (hb : f.b = 0) (hc : f.c = 0) (hd : f.d = 0) :
    decodeFields .single f = .ok .nexts := by
  simp [decodeFields, ho, ha, hb, hc, hd]

theorem decodeFields_nextv {f : Fields} (ho : f.opc = 0x04#8) (ha : f.a = 0) (hb : f.b = 0) (hc : f.c = 0) (hd : f.d = 0) :
    decodeFields .vector f = .ok .nextv := by
  simp [decodeFields, ho, ha, hb, hc, hd]

theorem decodeFields_perm (v : Variant) {f : Fields} (ho : f.opc = 0x10#8) (hd : f.d = 0) :
    decodeFields v f = .ok (.perm (counterOfSlots f.a f.b) (keyOfSlot f.c)) := by
  simp [decodeFields, ho, hd]

theorem decodeFields_genv (v : Variant) {f : Fields} (ho : f.opc = 0x11#8) :
    decodeFields v f = .ok (.genv f.a f.b f.c f.d) := by
  simp [decodeFields, ho]

theorem decodeFields_gens (v : Variant) {f : Fields} (ho : f.opc = 0x12#8) :
    decodeFields v f = .ok (.gens f.a f.b f.c f.d) := by
  simp [decodeFields, ho]

theorem Instr.wellFormed_nexts {v : Variant} : Instr.nexts.wellFormed v = true ↔ v = .single := by
  simp [Instr.wellFormed]

theorem Instr.wellFormed_nextv {v : Variant} : Instr.nextv.wellFormed v = true ↔ v = .vector := by
  simp [Instr.wellFormed]

/-- The decoder reads a command's fields back: each is one of the seven cases. -/
theorem decodeFields_encodeFields {v : Variant} {i : Instr} (h : i.wellFormed v = true) :
    decodeFields v (encodeFields i) = .ok i := by
  cases i with
  | init seed sub off => exact decodeFields_init v rfl rfl
  | skip off => exact decodeFields_skip v rfl rfl rfl rfl
  | nexts =>
    obtain rfl : v = .single := Instr.wellFormed_nexts.mp h
    exact decodeFields_nexts rfl rfl rfl rfl rfl
  | nextv =>
    obtain rfl : v = .vector := Instr.wellFormed_nextv.mp h
    exact decodeFields_nextv rfl rfl rfl rfl rfl
  | perm c k =>
    rw [decodeFields_perm v rfl rfl, encodeFields, counterOfSlots_slots, keyOfSlot_slot]
  | genv seed sub off j => exact decodeFields_genv v rfl
  | gens seed sub off j => exact decodeFields_gens v rfl

/-- Settles O1: the fields of the command's word are the command's (`decode_encode_eq`), and the decoder reads them back. -/
theorem decodeOfEncodeReturnsTheCommand : Obligations.DecodeOfEncodeReturnsTheCommand := fun v i hwf => by
  rw [decode_encode_eq, decodeFields_encodeFields hwf]

theorem encode_of_decode {v : Variant} {w : CommandWord} {i : Instr} (h : decode v w = .ok i) : encode i = w := by
  rw [encode, encodeFields_of_decode h, packFields_fieldsOf]

theorem wellFormed_of_decode {v : Variant} {w : CommandWord} {i : Instr} (h : decode v w = .ok i) :
    i.wellFormed v = true := (decodeFields_ok h).2

/-- The fields are of one of R55's seven cases. -/
def Fields.accepted (v : Variant) (f : Fields) : Prop :=
  (f.opc = 0x01#8 ∧ f.d = 0) ∨ (f.opc = 0x02#8 ∧ f.b = 0 ∧ f.c = 0 ∧ f.d = 0) ∨
    (f.opc = 0x03#8 ∧ f.a = 0 ∧ f.b = 0 ∧ f.c = 0 ∧ f.d = 0 ∧ v = .single) ∨
    (f.opc = 0x04#8 ∧ f.a = 0 ∧ f.b = 0 ∧ f.c = 0 ∧ f.d = 0 ∧ v = .vector) ∨
    (f.opc = 0x10#8 ∧ f.d = 0) ∨ f.opc = 0x11#8 ∨ f.opc = 0x12#8

/-- The fields of a command are of its own case, where the variant accepts it. -/
theorem encodeFields_accepted_iff {v : Variant} {i : Instr} : (encodeFields i).accepted v ↔ i.wellFormed v = true := by
  cases i <;> simp [encodeFields, Fields.accepted, Instr.wellFormed]

/-- The decoder accepts exactly the words of R55's seven cases. -/
theorem exists_decode_ok_iff {v : Variant} {w : CommandWord} :
    (∃ i, decode v w = .ok i) ↔ (fieldsOf w).accepted v := by
  constructor
  · rintro ⟨i, hd⟩
    rw [← encodeFields_of_decode hd]
    exact encodeFields_accepted_iff.mpr (wellFormed_of_decode hd)
  · rintro (⟨ho, hd⟩ | ⟨ho, hb, hc, hd⟩ | ⟨ho, ha, hb, hc, hd, rfl⟩ | ⟨ho, ha, hb, hc, hd, rfl⟩ | ⟨ho, hd⟩ | ho | ho)
    · exact ⟨_, decodeFields_init v ho hd⟩
    · exact ⟨_, decodeFields_skip v ho hb hc hd⟩
    · exact ⟨_, decodeFields_nexts ho ha hb hc hd⟩
    · exact ⟨_, decodeFields_nextv ho ha hb hc hd⟩
    · exact ⟨_, decodeFields_perm v ho hd⟩
    · exact ⟨_, decodeFields_genv v ho⟩
    · exact ⟨_, decodeFields_gens v ho⟩

/-- An answer of the decoder is a command or an error. -/
theorem exists_decode_error_iff {v : Variant} {w : CommandWord} :
    (∃ e, decode v w = .error e) ↔ ¬ (fieldsOf w).accepted v := by
  rw [← exists_decode_ok_iff]
  cases decode v w <;> simp

/-- Settles O2: the seven cases by their lemmas, the eighth by `exists_decode_error_iff`. -/
theorem decoderFollowsTheCases : Obligations.DecoderFollowsTheCases := by
  refine ⟨fun v w => ⟨?_, ?_, ?_, ?_, ?_, ?_, ?_, ?_⟩, decodeOfEncodeReturnsTheCommand, fun _ _ _ => encode_of_decode⟩
  · exact fun ⟨ho, hd⟩ => decodeFields_init v ho hd
  · exact fun ⟨ho, hb, hc, hd⟩ => decodeFields_skip v ho hb hc hd
  · rintro ⟨ho, ha, hb, hc, hd, rfl⟩
    exact decodeFields_nexts ho ha hb hc hd
  · rintro ⟨ho, ha, hb, hc, hd, rfl⟩
    exact decodeFields_nextv ho ha hb hc hd
  · exact fun ⟨ho, hd⟩ => decodeFields_perm v ho hd
  · exact fun ho => decodeFields_genv v ho
  · exact fun ho => decodeFields_gens v ho
  · rintro ⟨hinit, hskip, hnexts, hnextv, hperm, hgenv, hgens⟩
    refine exists_decode_error_iff.mpr ?_
    rintro (h | h | h | h | h | h | h)
    exacts [hinit h, hskip h, hnexts h, hnextv h, hperm h, hgenv h, hgens h]

/-! ### Reserved words (R51) -/

/-- R51 (a), (b) and (c) over the fields. -/
def Fields.reserved (v : Variant) (f : Fields) : Prop :=
  (f.opc ≠ 0x01#8 ∧ f.opc ≠ 0x02#8 ∧ f.opc ≠ 0x03#8 ∧ f.opc ≠ 0x04#8 ∧ f.opc ≠ 0x10#8 ∧ f.opc ≠ 0x11#8 ∧
      f.opc ≠ 0x12#8) ∨
    (((f.opc = 0x01#8 ∨ f.opc = 0x10#8) ∧ f.d ≠ 0) ∨ (f.opc = 0x02#8 ∧ (f.b ≠ 0 ∨ f.c ≠ 0 ∨ f.d ≠ 0)) ∨
      ((f.opc = 0x03#8 ∨ f.opc = 0x04#8) ∧ (f.a ≠ 0 ∨ f.b ≠ 0 ∨ f.c ≠ 0 ∨ f.d ≠ 0))) ∨
    ((f.opc = 0x03#8 ∧ v = .vector) ∨ (f.opc = 0x04#8 ∧ v = .single))

theorem Variant.eq_vector_iff {v : Variant} : v = .vector ↔ v ≠ .single := by
  cases v <;> simp

/-- R51 is the complement of R55's seven cases: opcode by opcode, the seven assigned ones being distinct. -/
theorem Fields.reserved_iff {v : Variant} {f : Fields} : f.reserved v ↔ ¬ f.accepted v := by
  obtain ⟨opc, d, c, b, a⟩ := f
  by_cases hassigned : opc = 0x01#8 ∨ opc = 0x02#8 ∨ opc = 0x03#8 ∨ opc = 0x04#8 ∨ opc = 0x10#8 ∨ opc = 0x11#8 ∨ opc = 0x12#8
  · obtain rfl | rfl | rfl | rfl | rfl | rfl | rfl := hassigned <;>
      simp [Fields.reserved, Fields.accepted, Variant.eq_vector_iff] <;> tauto
  · simp_all [Fields.reserved, Fields.accepted]

end Sys2Proof

namespace Sys2Proof.Machine

/-- What the guard of R97 can do when it refuses. -/
theorem whenInited_refused {s : State} {r : Refusal} {run : State → Host.Outcome State Fault Refusal}
    (h : whenInited s run = .refused r) : s.inited = false ∧ r = .notInitialised ∨ run s = .refused r := by
  cases hi : s.inited with
  | true =>
    rw [whenInited_of_inited hi] at h
    exact .inr h
  | false =>
    rw [whenInited_of_not hi] at h
    cases h
    exact .inl ⟨rfl, rfl⟩

/-- What the two guards of an output command can do when they refuse: the variant is looked at first. -/
theorem whenVariant_whenInited_refused {v : Variant} {s : State} {r : Refusal}
    {run : State → Host.Outcome State Fault Refusal}
    (h : whenVariant v s (fun s => whenInited s run) = .refused r) :
    (s.cfg.variant ≠ v ∧ r = .reserved .wrongVariant) ∨
    (s.cfg.variant = v ∧ (s.inited = false ∧ r = .notInitialised ∨ run s = .refused r)) := by
  by_cases hv : s.cfg.variant = v
  · rw [whenVariant_of_eq hv] at h
    exact .inr ⟨hv, whenInited_refused h⟩
  · rw [whenVariant_of_ne hv] at h
    cases h
    exact .inl ⟨hv, rfl⟩

/-- Everything a meaning can do when it refuses: the command is the other variant's (R51), or it needs the registers and the
engine is not initialised (R97). -/
theorem exec_refused_cases {i : Instr} {s : State} {r : Refusal} (h : exec i s = .refused r) :
    (i.wellFormed s.cfg.variant = false ∧ r = .reserved .wrongVariant) ∨
    (i.wellFormed s.cfg.variant = true ∧ needsInited i = true ∧ s.inited = false ∧ r = .notInitialised) := by
  cases i with
  | skip off =>
    simp only [exec, execSkip] at h
    obtain ⟨hi, hr⟩ | hrun := whenInited_refused h
    · exact .inr ⟨rfl, rfl, hi, hr⟩
    · cases hrun
  | nexts =>
    simp only [exec, execNexts] at h
    obtain ⟨hv, hr⟩ | ⟨hv, ⟨hi, hr⟩ | hrun⟩ := whenVariant_whenInited_refused h
    · exact .inl ⟨by simp [Instr.wellFormed, hv], hr⟩
    · exact .inr ⟨by simp [Instr.wellFormed, hv], rfl, hi, hr⟩
    · cases hrun
  | nextv =>
    simp only [exec, execNextv] at h
    obtain ⟨hv, hr⟩ | ⟨hv, ⟨hi, hr⟩ | hrun⟩ := whenVariant_whenInited_refused h
    · exact .inl ⟨by simp [Instr.wellFormed, hv], hr⟩
    · exact .inr ⟨by simp [Instr.wellFormed, hv], rfl, hi, hr⟩
    · cases hrun
  | init seed sub off => cases h
  | perm c k => cases h
  | genv seed sub off j => cases h
  | gens seed sub off j => cases h

/-- A step on a presented word is refused as reserved by the decoder alone: a command that the decoder accepts passes the guard
of R51 (c). -/
theorem step_reserved_iff {s : State} {w : CommandWord} {later : List HostEvent} (hin : s.inputs = .word w :: later)
    (why : DecodeError) : step s = .refused (.reserved why) ↔ decode s.cfg.variant w = .error why := by
  refine ⟨fun h => ?_, step_reserved hin⟩
  cases hd : decode s.cfg.variant w with
  | error e =>
    rw [step_reserved hin hd] at h
    cases h
    rfl
  | ok i =>
    rw [step_command hin hd] at h
    obtain ⟨hwf, -⟩ | ⟨-, -, -, hr⟩ := exec_refused_cases h
    · exact absurd (wellFormed_of_decode hd) (by simp [hwf])
    · cases hr

theorem runSteps_one (s : State) : Host.Core.run Sys2Proof.core 1 s = step s := by
  cases hs : step s with
  | next t => exact runSteps_next hs 0
  | fault f => exact nomatch f
  | refused r => exact runSteps_refused hs 0

/-- Settles O3: R51 is the complement of R55's seven cases, where the decoder answers an error, and that refuses the step. -/
theorem reservedWordsAreRefused : Obligations.ReservedWordsAreRefused := fun s w later hin => by
  refine (Fields.reserved_iff (f := fieldsOf w).trans exists_decode_error_iff.symm).trans (exists_congr fun why => ?_)
  rw [← step_reserved_iff hin]
  refine ⟨runSteps_refused, fun hrun => ?_⟩
  rw [← runSteps_one]
  exact hrun 0

end Sys2Proof.Machine
end

section
/-! SUPPORT. The stored form (spec/30_encoding.md R59; spec/20_memory.md R33): the bytes of a word spell its number, so the decoder
reads the word back. -/

namespace Sys2Proof

@[simp] theorem storedBytes_length {m : Nat} (n : Nat) (w : BitVec m) : (storedBytes n w).length = n := by
  simp [storedBytes]

theorem storedBytes_getElem? {m n j : Nat} (w : BitVec m) (h : j < n) :
    (storedBytes n w)[j]? = some (w.extractLsb' (8 * j) 8) := by
  simp [storedBytes, h]

theorem storedBytes_succ {m : Nat} (n : Nat) (w : BitVec m) :
    storedBytes (n + 1) w = storedBytes n w ++ [w.extractLsb' (8 * n) 8] := by
  simp [storedBytes, List.range_succ]

theorem littleEndian_append_byte (bs : List Byte) (b : Byte) :
    littleEndian (bs ++ [b]) = littleEndian bs + 256 ^ bs.length * b.toNat := by
  induction bs with
  | nil => simp [littleEndian]
  | cons x xs ih =>
    simp only [List.cons_append, littleEndian, ih, List.length_cons]
    ring

/-- The first `n` bytes spell the number's low `8n` bits (R33). -/
theorem littleEndian_storedBytes {m : Nat} (n : Nat) (w : BitVec m) :
    littleEndian (storedBytes n w) = w.toNat % 256 ^ n := by
  induction n with
  | zero => simp [storedBytes, littleEndian, Nat.mod_one]
  | succ n ih =>
    rw [storedBytes_succ, littleEndian_append_byte, ih, storedBytes_length, BitVec.extractLsb'_toNat,
      Nat.shiftRight_eq_div_pow, Nat.pow_mul]
    exact Nat.mod_pow_succ.symm

@[simp] theorem ofNat_littleEndian_commandBytes (w : CommandWord) :
    BitVec.ofNat 264 (littleEndian (commandBytes w)) = w := by
  apply BitVec.eq_of_toNat_eq
  have := w.isLt
  rw [commandBytes, littleEndian_storedBytes, BitVec.toNat_ofNat]
  omega

/-- Decoding the stored form of a word is decoding the word, whatever follows it in the stream (R59). -/
theorem decodeBytes_commandBytes (v : Variant) (w : CommandWord) (rest : List Byte) :
    decodeBytes v (commandBytes w ++ rest) = (decode v w).map fun i => (i, rest) := by
  have hlen : (commandBytes w).length = 33 := storedBytes_length 33 w
  have hwhole : ¬ (commandBytes w ++ rest).length < 33 := by simp [hlen]
  rw [decodeBytes, if_neg hwhole, List.take_left' hlen, List.drop_left' hlen, ofNat_littleEndian_commandBytes]
  cases decode v w <;> rfl

/-- Settles O5. -/
theorem storedFormIsLittleEndian : Obligations.StoredFormIsLittleEndian := by
  intro w r
  refine ⟨storedBytes_length 33 w, storedBytes_length 16 r, fun j => storedBytes_getElem? w, fun j => storedBytes_getElem? r,
    ?_, ?_, fun v rest i => ?_⟩
  · rw [fieldsOf, BitVec.extractLsb'_extractLsb'_of_le (by decide)]
    exact storedBytes_getElem? w (by decide)
  · exact storedBytes_getElem? w (by decide)
  · rw [decodeBytes_commandBytes]
    cases decode v w <;> simp [Except.map]

end Sys2Proof
end

section
/-! SUPPORT. The variant (spec/30_encoding.md R52): which words and commands depend on it, and the host's presentation of a word to
an engine that accepts it (log entry 5). -/

namespace Sys2Proof

open Sys2Proof.Machine

/-- The variant is looked at under the opcodes of `NEXTS` and `NEXTV` only. -/
theorem decodeFields_eq_of_opcode {f : Fields} (hs : f.opc ≠ 0x03#8) (hv : f.opc ≠ 0x04#8) (v v' : Variant) :
    decodeFields v f = decodeFields v' f := by
  simp only [decodeFields, if_neg hs, if_neg hv]

theorem eq_nexts_of_opcode {i : Instr} (h : (encodeFields i).opc = 0x03#8) : i = .nexts := by
  cases i <;> simp [encodeFields] at h ⊢

theorem eq_nextv_of_opcode {i : Instr} (h : (encodeFields i).opc = 0x04#8) : i = .nextv := by
  cases i <;> simp [encodeFields] at h ⊢

/-- Settles O6: an accepted word's opcode is its command's, and the variant accepts the command. -/
theorem variantChangesOnlyTheOutputCommands : Obligations.VariantChangesOnlyTheOutputCommands := by
  refine ⟨fun w hs hv => decodeFields_eq_of_opcode hs hv _ _, fun v w i hd => ?_, fun s t h => by rw [step_cfg h]⟩
  have hopc : (encodeFields i).opc = w.extractLsb' 256 8 := congrArg Fields.opc (encodeFields_of_decode hd)
  have hwf := wellFormed_of_decode hd
  rw [← hopc]
  constructor
  · intro h
    obtain rfl := eq_nexts_of_opcode h
    exact ⟨rfl, Instr.wellFormed_nexts.mp hwf⟩
  · intro h
    obtain rfl := eq_nextv_of_opcode h
    exact ⟨rfl, Instr.wellFormed_nextv.mp hwf⟩

/-- Each command is accepted by one variant at least. -/
theorem Instr.wellFormed_other {v : Variant} {i : Instr} (h : i.wellFormed v = false) : i.wellFormed v.other = true := by
  cases i with
  | nexts =>
    cases v with
    | single => cases h
    | vector => rfl
  | nextv =>
    cases v with
    | single => rfl
    | vector => cases h
  | _ => cases h

theorem decode_encode {v : Variant} {i : Instr} (h : i.wellFormed v = true) : decode v (encode i) = .ok i :=
  decodeOfEncodeReturnsTheCommand v i h

/-- The variant that does not accept a command answers its word with an error. -/
theorem decode_encode_error {v : Variant} {i : Instr} (h : i.wellFormed v = false) :
    ∃ e, decode v (encode i) = .error e := by
  rw [exists_decode_error_iff, encode, fieldsOf_packFields, encodeFields_accepted_iff]
  simp [h]

/-- The host presents a command's word to an engine as it is where the engine accepts it, and otherwise to one of the
other variant. -/
theorem presentingVariant_encode (v : Variant) (i : Instr) :
    presentingVariant v (encode i) = if i.wellFormed v then v else v.other := by
  cases hwf : i.wellFormed v with
  | true => simp [presentingVariant, decode_encode hwf]
  | false =>
    obtain ⟨e, he⟩ := decode_encode_error hwf
    simp [presentingVariant, he, decode_encode (Instr.wellFormed_other hwf)]

theorem wellFormed_presentingVariant_encode (v : Variant) (i : Instr) :
    i.wellFormed (presentingVariant v (encode i)) = true := by
  rw [presentingVariant_encode]
  cases hwf : i.wellFormed v with
  | true => simpa using hwf
  | false => simpa using Instr.wellFormed_other hwf

/-- The table's numbering of a whole word is the word's number. -/
@[simp] theorem tableWord_toNat (w : CommandWord) : tableWord 264 w.toNat = w := by
  rw [tableWord, Nat.mod_eq_of_lt w.isLt, BitVec.ofNat_toNat, BitVec.setWidth_eq]

theorem decodeTableWord_encode (i : Instr) : decodeTableWord 264 (encode i).toNat = some i := by
  rw [decodeTableWord, tableWord_toNat, decode_encode (wellFormed_presentingVariant_encode .single i)]

end Sys2Proof

namespace Sys2Proof.Machine

/-- Settles O55: the word presented is the first input of an engine that decodes it to its command. -/
theorem presentedWordIsRunNext : Obligations.PresentedWordIsRunNext := fun s i => by
  refine ⟨?_, decodeTableWord_encode i⟩
  rw [State.withFetchWord, tableWord_toNat,
    step_command (State.presentFirst_inputs s (encode i)) (decode_encode (wellFormed_presentingVariant_encode _ i)),
    ← presentingVariant_encode]
  rfl

end Sys2Proof.Machine
end

section
/-! SUPPORT. The response channel (spec/30_encoding.md R56 to R58): how many words a command puts there, and what each lane of a
response word holds. -/

namespace Sys2Proof.Machine

/-- Every command appends to the channel the number of words it owes, after those already there (R56). -/
theorem exec_responses {i : Instr} {s t : State} (h : exec i s = .next t) :
    ∃ l : List ResponseWord, t.responses = s.responses ++ l ∧ l.length = owedBy i := by
  obtain ⟨seed, sub, off, rfl, rfl⟩ | ⟨off, rfl, -, rfl⟩ | ⟨rfl, -, -, -, rfl⟩ | ⟨rfl, -, -, -, rfl⟩ | ⟨rfl, -, -, rfl⟩ |
    ⟨c, k, rfl, rfl⟩ | ⟨seed, sub, off, j, rfl, rfl⟩ | ⟨seed, sub, off, j, rfl, rfl⟩ := exec_next_cases h
  · exact ⟨[], by simp, rfl⟩
  · exact ⟨[], by simp, rfl⟩
  all_goals exact ⟨[_], rfl, rfl⟩

/-- Settles O29. -/
theorem oneResponsePerOutputCommand : Obligations.OneResponsePerOutputCommand := fun i s t h => by
  cases i <;> exact exec_responses h

/-- The response word of a batch holds its lanes, lane 0 lowest (R57). -/
theorem batchResponse_lanes (b : Lanes4) :
    (batchResponse b).extractLsb' 0 32 = b.l0 ∧ (batchResponse b).extractLsb' 32 32 = b.l1 ∧
      (batchResponse b).extractLsb' 64 32 = b.l2 ∧ (batchResponse b).extractLsb' 96 32 = b.l3 := by
  have h : lanes128 (batchResponse b) = b := lanes128_val128 b
  exact ⟨congrArg Lanes4.l0 h, congrArg Lanes4.l1 h, congrArg Lanes4.l2 h, congrArg Lanes4.l3 h⟩

/-- The response word of a lane is zero above its low lane (R57). -/
theorem laneResponse_high (x : Word) {k : Nat} (hk : 32 ≤ k) : (laneResponse x).extractLsb' k 32 = 0 := by
  apply BitVec.eq_of_toNat_eq
  have hx : (laneResponse x).toNat < 2 ^ 32 := by
    simpa [laneResponse] using Nat.lt_of_le_of_lt (Nat.mod_le _ _) x.isLt
  have hk : (laneResponse x).toNat < 2 ^ k := Nat.lt_of_lt_of_le hx (Nat.pow_le_pow_right (by decide) hk)
  rw [BitVec.extractLsb'_toNat, Nat.shiftRight_eq_div_pow, Nat.div_eq_of_lt hk]
  rfl

/-- The response word of a lane holds it in the low lane, and nothing else (R57). -/
theorem laneResponse_lanes (x : Word) :
    (laneResponse x).extractLsb' 0 32 = x ∧ (laneResponse x).extractLsb' 32 32 = 0 ∧
      (laneResponse x).extractLsb' 64 32 = 0 ∧ (laneResponse x).extractLsb' 96 32 = 0 := by
  refine ⟨?_, laneResponse_high x (by decide), laneResponse_high x (by decide), laneResponse_high x (by decide)⟩
  rw [laneResponse, BitVec.extractLsb'_setWidth_of_le (by decide), BitVec.extractLsb'_eq_self]

theorem exec_nextv_responses {s t : State} (h : exec .nextv s = .next t) :
    t.responses = s.responses ++ [batchResponse s.buf] := by
  obtain ⟨-, -, rfl⟩ : s.cfg.variant = .vector ∧ s.inited = true ∧ t = s.advance.respondBatch s.buf := by
    simpa using exec_next_cases h
  rfl

theorem exec_nexts_responses {s t : State} (h : exec .nexts s = .next t) :
    t.responses = s.responses ++ [laneResponse (laneAt s.buf s.pos)] := by
  obtain ⟨-, -, -, rfl⟩ | ⟨-, -, -, rfl⟩ :
      (s.cfg.variant = .single ∧ s.inited = true ∧ s.pos = 3 ∧
        t = (s.advance.setPos 0).respondLane (laneAt s.buf s.pos)) ∨
      (s.cfg.variant = .single ∧ s.inited = true ∧ s.pos ≠ 3 ∧
        t = (s.setPos (s.pos + 1)).respondLane (laneAt s.buf s.pos)) := by
    simpa using exec_next_cases h
  · rfl
  · rfl

/-- Settles O28. -/
theorem responseWordLayout : Obligations.ResponseWordLayout := by
  refine fun s t => ⟨fun h => ⟨_, exec_nextv_responses h, batchResponse_lanes _⟩, fun c k h => ?_, fun a b c d h => ?_,
    fun h => ⟨_, exec_nexts_responses h, laneResponse_lanes _⟩, fun a b c d h => ?_⟩
  · rw [exec_perm] at h
    cases h
    exact ⟨_, rfl, batchResponse_lanes _⟩
  · rw [exec_genv] at h
    cases h
    exact ⟨_, rfl, batchResponse_lanes _⟩
  · rw [exec_gens] at h
    cases h
    exact ⟨_, rfl, laneResponse_lanes _⟩

end Sys2Proof.Machine
end

section
/-! SUPPORT. Sample words (spec/95_test_vectors.md section 2.11) and the textual form (spec/30_encoding.md R60, R61): an operand in
its width is the operand of the command, and one that is not is the error, at whatever place it stands. -/

namespace Sys2Proof.Machine

/-- Settles O4. -/
theorem sampleWordsDecode : Obligations.SampleWordsDecode :=
  ⟨rfl, rfl, rfl, rfl, rfl, rfl, rfl, rfl⟩

theorem fitOperand_of_lt {w n : Nat} (h : n < 2 ^ w) : fitOperand w n = .ok (BitVec.ofNat w n) := if_pos h

/-- Whatever is built from an operand that does not fit, and from one whose followers do not, is the error. -/
theorem fitOperand_bind_tooWide {w n : Nat} {build : BitVec w → Except AsmError Instr}
    (h : 2 ^ w ≤ n ∨ ∀ b, build b = .error .operandTooWide) : (fitOperand w n >>= build) = .error .operandTooWide := by
  obtain hn | hbuild := h
  · rw [fitOperand, if_neg (Nat.not_lt.mpr hn)]
    rfl
  · rw [fitOperand]
    split
    · exact hbuild _
    · rfl

/-! ### Operands that do not fit -/

theorem assembleInit_tooWide {ops : List Nat} (hlen : ops.length ≤ 3) (h : ∃ x ∈ ops, 2 ^ 64 ≤ x) :
    assembleInit ops = .error .operandTooWide := by
  match ops with
  | [] => simp at h
  | [s] => exact fitOperand_bind_tooWide (.inl (by simpa using h))
  | [s, q] =>
    have h : 2 ^ 64 ≤ s ∨ 2 ^ 64 ≤ q := by simpa using h
    exact fitOperand_bind_tooWide (h.imp_right fun h _ => fitOperand_bind_tooWide (.inl h))
  | [s, q, o] =>
    have h : 2 ^ 64 ≤ s ∨ 2 ^ 64 ≤ q ∨ 2 ^ 64 ≤ o := by simpa using h
    exact fitOperand_bind_tooWide (h.imp_right fun h _ => fitOperand_bind_tooWide (h.imp_right fun h _ =>
      fitOperand_bind_tooWide (.inl h)))
  | _ :: _ :: _ :: _ :: _ =>
    simp only [List.length_cons] at hlen
    omega

theorem assembleSkip_tooWide {ops : List Nat} (hlen : ops.length = 1) (h : ∃ x ∈ ops, 2 ^ 64 ≤ x) :
    assembleSkip ops = .error .operandTooWide := by
  obtain ⟨o, rfl⟩ := List.length_eq_one_iff.mp hlen
  exact fitOperand_bind_tooWide (.inl (by simpa using h))

theorem assembleGen_tooWide (make : DWord → DWord → DWord → DWord → Instr) {ops : List Nat} (hlen : ops.length = 4)
    (h : ∃ x ∈ ops, 2 ^ 64 ≤ x) : assembleGen make ops = .error .operandTooWide := by
  match ops with
  | [s, q, o, i] =>
    have h : 2 ^ 64 ≤ s ∨ 2 ^ 64 ≤ q ∨ 2 ^ 64 ≤ o ∨ 2 ^ 64 ≤ i := by simpa using h
    exact fitOperand_bind_tooWide (h.imp_right fun h _ => fitOperand_bind_tooWide (h.imp_right fun h _ =>
      fitOperand_bind_tooWide (h.imp_right fun h _ => fitOperand_bind_tooWide (.inl h))))

theorem assemblePerm_tooWide {ops : List Nat} (hlen : ops.length = 6) (h : ∃ x ∈ ops, 2 ^ 32 ≤ x) :
    assemblePerm ops = .error .operandTooWide := by
  match ops with
  | [c0, c1, c2, c3, k0, k1] =>
    have h : 2 ^ 32 ≤ c0 ∨ 2 ^ 32 ≤ c1 ∨ 2 ^ 32 ≤ c2 ∨ 2 ^ 32 ≤ c3 ∨ 2 ^ 32 ≤ k0 ∨ 2 ^ 32 ≤ k1 := by simpa using h
    exact fitOperand_bind_tooWide (h.imp_right fun h _ => fitOperand_bind_tooWide (h.imp_right fun h _ =>
      fitOperand_bind_tooWide (h.imp_right fun h _ => fitOperand_bind_tooWide (h.imp_right fun h _ =>
        fitOperand_bind_tooWide (h.imp_right fun h _ => fitOperand_bind_tooWide (.inl h))))))

/-! ### Operands in their widths -/

theorem assembleInit_one_of_lt {s : Nat} (hs : s < 2 ^ 64) :
    assembleInit [s] = .ok (.init (BitVec.ofNat 64 s) 0 0) := by
  rw [assembleInit, fitOperand_of_lt hs]
  rfl

theorem assembleInit_two_of_lt {s q : Nat} (hs : s < 2 ^ 64) (hq : q < 2 ^ 64) :
    assembleInit [s, q] = .ok (.init (BitVec.ofNat 64 s) (BitVec.ofNat 64 q) 0) := by
  rw [assembleInit, fitOperand_of_lt hs, fitOperand_of_lt hq]
  rfl

theorem assembleInit_three_of_lt {s q o : Nat} (hs : s < 2 ^ 64) (hq : q < 2 ^ 64) (ho : o < 2 ^ 64) :
    assembleInit [s, q, o] = .ok (.init (BitVec.ofNat 64 s) (BitVec.ofNat 64 q) (BitVec.ofNat 64 o)) := by
  rw [assembleInit, fitOperand_of_lt hs, fitOperand_of_lt hq, fitOperand_of_lt ho]
  rfl

theorem assembleSkip_of_lt {o : Nat} (ho : o < 2 ^ 64) : assembleSkip [o] = .ok (.skip (BitVec.ofNat 64 o)) := by
  rw [assembleSkip, fitOperand_of_lt ho]
  rfl

theorem assemblePerm_of_lt {c0 c1 c2 c3 k0 k1 : Nat} (h0 : c0 < 2 ^ 32) (h1 : c1 < 2 ^ 32) (h2 : c2 < 2 ^ 32)
    (h3 : c3 < 2 ^ 32) (hk0 : k0 < 2 ^ 32) (hk1 : k1 < 2 ^ 32) : assemblePerm [c0, c1, c2, c3, k0, k1] =
      .ok (.perm ⟨BitVec.ofNat 32 c0, BitVec.ofNat 32 c1, BitVec.ofNat 32 c2, BitVec.ofNat 32 c3⟩
        ⟨BitVec.ofNat 32 k0, BitVec.ofNat 32 k1⟩) := by
  rw [assemblePerm, fitOperand_of_lt h0, fitOperand_of_lt h1, fitOperand_of_lt h2, fitOperand_of_lt h3,
    fitOperand_of_lt hk0, fitOperand_of_lt hk1]
  rfl

theorem assembleGen_of_lt (make : DWord → DWord → DWord → DWord → Instr) {s q o i : Nat} (hs : s < 2 ^ 64)
    (hq : q < 2 ^ 64) (ho : o < 2 ^ 64) (hi : i < 2 ^ 64) : assembleGen make [s, q, o, i] =
      .ok (make (BitVec.ofNat 64 s) (BitVec.ofNat 64 q) (BitVec.ofNat 64 o) (BitVec.ofNat 64 i)) := by
  rw [assembleGen, fitOperand_of_lt hs, fitOperand_of_lt hq, fitOperand_of_lt ho, fitOperand_of_lt hi]
  rfl

/-! ### The mnemonics -/

/-- `STEP` is `SKIP 1`, which is one increment (R61). -/
theorem skip_one (c : Lanes4) : skip c 1 = inc c := by
  apply eq_of_val128_toNat
  rw [skip_toNat, inc_toNat]
  rfl

theorem assembleCommand_unknown {m : List Char} (ops : List Nat)
    (h : m ∉ ["INIT".toList, "SKIP".toList, "NEXTS".toList, "NEXTV".toList, "PERM".toList, "GENV".toList, "GENS".toList,
      "STEP".toList]) : assembleCommand m ops = .error .unknownMnemonic := by
  simp_all [assembleCommand]

/-- Settles O54. -/
theorem pseudoInstructionsExpand : Obligations.PseudoInstructionsExpand := by
  refine ⟨rfl, fun s hs => ?_, fun s q hs hq => ?_, rfl, skip_one, fun m ops => assembleCommand_unknown ops, rfl, rfl,
    fun s q o i hs hq ho hi => ⟨?_, ?_, assembleGen_of_lt .genv hs hq ho hi, assembleGen_of_lt .gens hs hq ho hi⟩,
    fun c0 c1 c2 c3 k0 k1 h0 h1 h2 h3 hk0 hk1 => ?_,
    fun ops h => ⟨fun hlen => assembleInit_tooWide hlen h, fun hlen => assembleSkip_tooWide hlen h,
      fun hlen => ⟨assembleGen_tooWide .genv hlen h, assembleGen_tooWide .gens hlen h⟩⟩,
    fun ops h hlen => assemblePerm_tooWide hlen h⟩
  · exact assembleInit_one_of_lt hs
  · exact assembleInit_two_of_lt hs hq
  · exact assembleSkip_of_lt ho
  · exact assembleInit_three_of_lt hs hq ho
  · exact assemblePerm_of_lt h0 h1 h2 h3 hk0 hk1

end Sys2Proof.Machine
end

section
/-! SUPPORT. The halves of a 64-bit value and the split multiply (spec/40_arith_primitives.md R63 to R65): a pair is the split
product exactly when it recomposes to the product. -/

namespace Sys2Proof.Machine

/-- The recomposition of R64, as numbers. -/
theorem halves_toNat (v : DWord) : (hi32 v).toNat * 2 ^ 32 + (lo32 v).toNat = v.toNat := by
  rw [← join64_toNat, join64_halves]

/-- Settles O7. -/
theorem halvesOfA64BitValue : Obligations.HalvesOfA64BitValue := fun v =>
  ⟨rfl, rfl, lo32_toNat v, hi32_toNat v, (halves_toNat v).symm⟩

/-- The contract of R65. -/
theorem mulhilo_recompose (a b : Word) :
    (mulhilo a b).1.toNat * 2 ^ 32 + (mulhilo a b).2.toNat = a.toNat * b.toNat := by
  rw [← product_toNat a b]
  exact halves_toNat _

/-- The contract of R65 determines the pair: the halves of a number are unique. -/
theorem mulhilo_eq_iff {a b hi lo : Word} :
    mulhilo a b = (hi, lo) ↔ hi.toNat * 2 ^ 32 + lo.toNat = a.toNat * b.toNat := by
  constructor
  · intro h
    simpa only [h] using mulhilo_recompose a b
  · intro h
    have hlo := lo.isLt
    obtain ⟨h1, h2⟩ := mulhilo_toNat a b
    have hhi : (mulhilo a b).1 = hi := BitVec.eq_of_toNat_eq (by omega)
    have hlow : (mulhilo a b).2 = lo := BitVec.eq_of_toNat_eq (by omega)
    exact Prod.ext hhi hlow

theorem mulhilo_comm (a b : Word) : mulhilo a b = mulhilo b a :=
  mulhilo_eq_iff.mpr ((mulhilo_recompose b a).trans (Nat.mul_comm _ _))

theorem mulhilo_zero_left (b : Word) : mulhilo 0 b = (0, 0) := mulhilo_eq_iff.mpr (by simp)

theorem mulhilo_one_left (b : Word) : mulhilo 1 b = (0, b) := mulhilo_eq_iff.mpr (by simp)

/-- Settles O8: every clause by the contract, `mulhilo_recompose`, and its uniqueness, `mulhilo_eq_iff`. -/
theorem splitMultiplyIsExact : Obligations.SplitMultiplyIsExact := by
  refine ⟨mulhilo_recompose, mulhilo_comm, fun b => ⟨mulhilo_zero_left b, ?_, mulhilo_one_left b⟩, ?_, ?_, ?_, ?_⟩
  · rw [mulhilo_comm, mulhilo_zero_left]
  all_goals exact mulhilo_eq_iff.mpr rfl

end Sys2Proof.Machine
end

section
/-! SUPPORT. The round engine (spec/41_round_engine.md R70 to R73): a round is two half rounds side by side, each a bijection exactly
when its multiplier is odd; and `philox` applies one round per key of the schedule. -/

namespace Sys2Proof.Machine

/-! ### The round and the key bump as numbers (R70, R72) -/

/-- The split product by the number it halves (R65). -/
theorem mulhilo_eq_ofNat (a b : Word) :
    mulhilo a b = (BitVec.ofNat 32 (a.toNat * b.toNat / 2 ^ 32), BitVec.ofNat 32 (a.toNat * b.toNat % 2 ^ 32)) := by
  obtain ⟨hhi, hlo⟩ := mulhilo_toNat a b
  rw [← hhi, ← hlo, BitVec.ofNat_toNat, BitVec.ofNat_toNat, BitVec.setWidth_eq, BitVec.setWidth_eq]

/-- Settles O9. -/
theorem roundCrossesTheProducts : Obligations.RoundCrossesTheProducts := fun cfg c k => by
  simp only [round, mulhilo_eq_ofNat]

/-- The key of round `i` (R73): the original key and `i` times the Weyl constants. -/
def roundKey (cfg : Config) (k : Lanes2) (i : Nat) : Lanes2 :=
  ⟨k.l0 + BitVec.ofNat 32 i * cfg.weyl0, k.l1 + BitVec.ofNat 32 i * cfg.weyl1⟩

@[simp] theorem roundKey_zero (cfg : Config) (k : Lanes2) : roundKey cfg k 0 = k := by
  simp [roundKey]

/-- One bump is one more Weyl constant. -/
theorem bumpkey_roundKey (cfg : Config) (k : Lanes2) (i : Nat) :
    bumpkey cfg (roundKey cfg k i) = roundKey cfg k (i + 1) := by
  simp [bumpkey, roundKey, BitVec.ofNat_add, add_mul, add_assoc]

/-- The key schedule in closed form (R72). -/
theorem bumpkey_iterate (cfg : Config) (k : Lanes2) (i : Nat) : (bumpkey cfg)^[i] k = roundKey cfg k i := by
  induction i with
  | zero => simp
  | succ i ih => rw [Function.iterate_succ_apply', ih, bumpkey_roundKey]

theorem roundKey_toNat (cfg : Config) (k : Lanes2) (i : Nat) :
    (roundKey cfg k i).l0.toNat = (k.l0.toNat + i * cfg.weyl0.toNat) % 2 ^ 32 ∧
      (roundKey cfg k i).l1.toNat = (k.l1.toNat + i * cfg.weyl1.toNat) % 2 ^ 32 := by
  simp [roundKey, BitVec.toNat_add, BitVec.toNat_mul]

/-- Settles O10: both clauses by the closed form, the single bump as the first of the schedule. -/
theorem keyBumpsAddUp : Obligations.KeyBumpsAddUp := fun cfg k => by
  refine ⟨⟨BitVec.toNat_add _ _, BitVec.toNat_add _ _⟩, fun i => ?_⟩
  rw [bumpkey_iterate]
  exact roundKey_toNat cfg k i

/-! ### Bijectivity of the round (R71) -/

/-- The part of a round that one multiplier makes, from the lane it multiplies and the lane its high half meets. -/
def halfRound (m : Word) (p : Word × Word) : Word × Word := ((mulhilo p.1 m).1 ^^^ p.2, (mulhilo p.1 m).2)

/-- The lanes of a counter as the inputs of the two half rounds: lane 0 with lane 3, lane 2 with lane 1. -/
def halvesOfCounter : Lanes4 ≃ (Word × Word) × (Word × Word) where
  toFun c := ((c.l0, c.l3), (c.l2, c.l1))
  invFun p := ⟨p.1.1, p.2.2, p.2.1, p.1.2⟩
  left_inv _ := rfl
  right_inv _ := rfl

/-- The results of the two half rounds crossed into a counter, under the key. -/
def crossHalves (k : Lanes2) : (Word × Word) × (Word × Word) ≃ Lanes4 where
  toFun p := ⟨p.2.1 ^^^ k.l0, p.2.2, p.1.1 ^^^ k.l1, p.1.2⟩
  invFun c := ((c.l2 ^^^ k.l1, c.l3), (c.l0 ^^^ k.l0, c.l1))
  left_inv p := by simp
  right_inv c := by simp

theorem round_eq_comp (cfg : Config) (k : Lanes2) : (fun c => round cfg c k) =
    crossHalves k ∘ Prod.map (halfRound cfg.mult0) (halfRound cfg.mult1) ∘ halvesOfCounter := rfl

/-- The low half of a product determines the other factor of an odd one: it is prime to `2^32`. -/
theorem eq_of_mulhilo_low_eq {m x y : Word} (hm : m.toNat % 2 = 1) (h : (mulhilo x m).2 = (mulhilo y m).2) : x = y := by
  have hmod : x.toNat * m.toNat ≡ y.toNat * m.toNat [MOD 2 ^ 32] := by
    obtain ⟨-, hx⟩ := mulhilo_toNat x m
    obtain ⟨-, hy⟩ := mulhilo_toNat y m
    rw [Nat.ModEq, ← hx, ← hy, h]
  have hgcd : Nat.gcd (2 ^ 32) m.toNat = 1 := Nat.Coprime.pow_left 32 (Nat.coprime_two_left.mpr (Nat.odd_iff.mpr hm))
  exact BitVec.eq_of_toNat_eq ((Nat.ModEq.cancel_right_of_coprime hgcd hmod).eq_of_lt_of_lt x.isLt y.isLt)

/-- The low half of an even number's product loses the top bit of the other factor. -/
theorem mulhilo_low_topBit {m : Word} (hm : m.toNat % 2 = 0) : (mulhilo 0x80000000#32 m).2 = 0 := by
  apply BitVec.eq_of_toNat_eq
  obtain ⟨-, hlow⟩ := mulhilo_toNat 0x80000000#32 m
  rw [hlow]
  change 2 ^ 31 * m.toNat % 2 ^ 32 = 0
  omega

theorem halfRound_injective_iff (m : Word) : Function.Injective (halfRound m) ↔ m.toNat % 2 = 1 := by
  constructor
  · intro hinj
    by_contra hodd
    have heven : m.toNat % 2 = 0 := by omega
    have hcollide : halfRound m (0x80000000#32, (mulhilo 0x80000000#32 m).1) = halfRound m (0, 0) := by
      simp only [halfRound, mulhilo_low_topBit heven, mulhilo_zero_left, BitVec.xor_self]
    have htop : 0x80000000#32 = 0 := congrArg Prod.fst (hinj hcollide)
    exact absurd htop (by decide)
  · intro hodd ⟨x, u⟩ ⟨y, v⟩ h
    obtain ⟨hhigh, hlow⟩ := Prod.mk.inj h
    have hxy : x = y := eq_of_mulhilo_low_eq hodd hlow
    subst hxy
    exact Prod.ext rfl ((BitVec.xor_right_inj _).mp hhigh)

theorem halfRound_bijective_iff (m : Word) : Function.Bijective (halfRound m) ↔ m.toNat % 2 = 1 := by
  have : Finite Word := Finite.of_injective BitVec.toFin fun _ _ => BitVec.eq_of_toFin_eq
  rw [← Finite.injective_iff_bijective, halfRound_injective_iff]

/-- The round is a bijection exactly when its two half rounds are (R71). -/
theorem round_bijective_iff (cfg : Config) (k : Lanes2) : Function.Bijective (fun c => round cfg c k) ↔
    cfg.mult0.toNat % 2 = 1 ∧ cfg.mult1.toNat % 2 = 1 := by
  rw [round_eq_comp, Equiv.comp_bijective, Equiv.bijective_comp, Prod.map_bijective, halfRound_bijective_iff,
    halfRound_bijective_iff]

/-- Settles O11. -/
theorem roundIsBijectiveExactlyForOddMultipliers : Obligations.RoundIsBijectiveExactlyForOddMultipliers :=
  ⟨round_bijective_iff, fun _ => by simp [Config.default]⟩

/-! ### The rounds of `philox` (R73) -/

/-- The loop of R73 after its key has been bumped `j` times: its rounds use the keys `j + 1` to `j + n` of the schedule. -/
theorem bumpedRounds_roundKey (cfg : Config) (k : Lanes2) (n j : Nat) (x : Lanes4) :
    bumpedRounds cfg n x (roundKey cfg k j) =
      (List.range' (j + 1) n).foldl (fun x i => round cfg x (roundKey cfg k i)) x := by
  induction n generalizing j x with
  | zero => rfl
  | succ n ih => rw [bumpedRounds, bumpkey_roundKey, ih, List.range'_succ, List.foldl_cons]

/-- The first round uses the original key, the others the keys after it: `R` rounds in all. -/
theorem philox_eq_foldl {cfg : Config} (hwf : cfg.wf = true) (c : Lanes4) (k : Lanes2) :
    philox cfg c k = (List.range cfg.rounds).foldl (fun x i => round cfg x (roundKey cfg k i)) c := by
  have hpos : 0 < cfg.rounds := by simpa [Config.wf] using hwf
  have hloop := bumpedRounds_roundKey cfg k (cfg.rounds - 1) 0 (round cfg c k)
  rw [roundKey_zero] at hloop
  rw [philox, hloop, List.range_eq_range', ← Nat.sub_add_cancel hpos, List.range'_succ, List.foldl_cons, roundKey_zero,
    Nat.add_sub_cancel]

theorem philox_of_one_round {cfg : Config} (h : cfg.rounds = 1) (c : Lanes4) (k : Lanes2) :
    philox cfg c k = round cfg c k := by
  rw [philox, h]
  rfl

/-- Rounds under any keys are a bijection where each round is. -/
theorem bumpedRounds_bijective {cfg : Config} (hround : ∀ k, Function.Bijective (fun c => round cfg c k)) (n : Nat)
    (k : Lanes2) : Function.Bijective (fun c => bumpedRounds cfg n c k) := by
  induction n generalizing k with
  | zero => exact Function.bijective_id
  | succ n ih => exact (ih (bumpkey cfg k)).comp (hround (bumpkey cfg k))

theorem philox_bijective {cfg : Config} (h0 : cfg.mult0.toNat % 2 = 1) (h1 : cfg.mult1.toNat % 2 = 1) (k : Lanes2) :
    Function.Bijective (fun c => philox cfg c k) := by
  have hround := fun k => (round_bijective_iff cfg k).mpr ⟨h0, h1⟩
  exact (bumpedRounds_bijective hround (cfg.rounds - 1) k).comp (hround k)

/-- Settles O12. -/
theorem philoxIsRRoundsOfTheKeySchedule : Obligations.PhiloxIsRRoundsOfTheKeySchedule := fun _ k hwf =>
  ⟨fun c => philox_eq_foldl hwf c k, fun h c => philox_of_one_round h c k, fun h0 h1 => philox_bijective h0 h1 k⟩

end Sys2Proof.Machine
end

section
/-! SUPPORT. What keeps `KEY` (spec/10_state.md R16; spec/41_round_engine.md R74): every command but `INIT`, and so every run whose
inputs hold neither a reset nor an `INIT`. -/

namespace Sys2Proof.Machine

/-- Only `INIT` writes `KEY` (R16), and it is the command that sets `INITED`. -/
theorem exec_key {i : Instr} {s t : State} (h : exec i s = .next t) (hi : setsInited i = false) : t.key = s.key := by
  obtain ⟨seed, sub, off, rfl, rfl⟩ | ⟨off, rfl, -, rfl⟩ | ⟨rfl, -, -, -, rfl⟩ | ⟨rfl, -, -, -, rfl⟩ | ⟨rfl, -, -, rfl⟩ |
    ⟨c, k, rfl, rfl⟩ | ⟨seed, sub, off, j, rfl, rfl⟩ | ⟨seed, sub, off, j, rfl, rfl⟩ := exec_next_cases h
  · simp [setsInited] at hi
  all_goals simp

/-- The host presents neither a reset nor an `INIT`. -/
def State.keepsKey (s : State) : Prop := ∀ e ∈ s.inputs, ∃ w, e = .word w ∧ w.extractLsb' 256 8 ≠ 0x01#8

/-- A step on such a state leaves `KEY` alone, and what is still presented is of the same kind. -/
theorem step_key {s t : State} (hs : s.keepsKey) (h : step s = .next t) : t.key = s.key ∧ t.keepsKey := by
  obtain ⟨-, rfl⟩ | ⟨later, hin, rfl⟩ | ⟨w, later, i, hin, hd, hx⟩ := step_next_cases h
  · exact ⟨rfl, hs⟩
  · obtain ⟨w, hw, -⟩ := hs .reset (by simp [hin])
    cases hw
  · rw [State.keepsKey, hin, List.forall_mem_cons] at hs
    obtain ⟨⟨w', hw, hopc⟩, hlater⟩ := hs
    cases hw
    have hi : setsInited i = false := by simpa [setsInited_of_decode hd] using hopc
    refine ⟨exec_key (s := { s with inputs := later }) hx hi, ?_⟩
    rw [State.keepsKey, exec_inputs hx]
    exact hlater

/-- Settles O38: along the run, `KEY` is the first state's and the inputs stay free of resets and `INIT`s. -/
theorem keyStaysAsInitWroteIt : Obligations.KeyStaysAsInitWroteIt := fun _ s t hr hs => by
  have hstep : ∀ u v : State, (u.key = s.key ∧ u.keepsKey) → step u = .next v → v.key = s.key ∧ v.keepsKey := by
    intro u v ⟨hkey, hu⟩ hv
    obtain ⟨hkey', hv'⟩ := step_key hu hv
    exact ⟨hkey'.trans hkey, hv'⟩
  obtain ⟨hkey, -⟩ := runSteps_keeps hstep ⟨rfl, hs⟩ hr
  exact hkey

end Sys2Proof.Machine
end

section
/-! SUPPORT. The moves of a counter (spec/42_counter_ops.md R78 to R86): each adds a fixed number to the 128-bit value, which gives the
bijections and the exchanges; and the lane forms are that addition, carry by carry. -/

namespace Sys2Proof.Machine

/-! ### The carry chain of `inc` (R78, R79) -/

theorem word_add_one_eq_zero_iff (x : Word) : x + 1 = 0 ↔ x = 0xFFFFFFFF#32 := by bv_omega

/-- Where the carry chain of R79 stops: at the first lane that is not all ones. -/
theorem incLanes_cases (c : Lanes4) :
    (c.l0 ≠ 0xFFFFFFFF#32 ∧ incLanes c = ⟨c.l0 + 1, c.l1, c.l2, c.l3⟩) ∨
    (c.l0 = 0xFFFFFFFF#32 ∧ c.l1 ≠ 0xFFFFFFFF#32 ∧ incLanes c = ⟨0, c.l1 + 1, c.l2, c.l3⟩) ∨
    (c.l0 = 0xFFFFFFFF#32 ∧ c.l1 = 0xFFFFFFFF#32 ∧ c.l2 ≠ 0xFFFFFFFF#32 ∧ incLanes c = ⟨0, 0, c.l2 + 1, c.l3⟩) ∨
    (c.l0 = 0xFFFFFFFF#32 ∧ c.l1 = 0xFFFFFFFF#32 ∧ c.l2 = 0xFFFFFFFF#32 ∧ incLanes c = ⟨0, 0, 0, c.l3 + 1⟩) := by
  simp only [incLanes, word_add_one_eq_zero_iff]
  by_cases h0 : c.l0 = 0xFFFFFFFF#32
  · by_cases h1 : c.l1 = 0xFFFFFFFF#32
    · by_cases h2 : c.l2 = 0xFFFFFFFF#32 <;> simp [h0, h1, h2]
    · simp [h0, h1]
  · simp [h0]

theorem word_toNat_add_one_lt {x : Word} (h : x ≠ 0xFFFFFFFF#32) : x.toNat + 1 < 2 ^ 32 := by bv_omega

/-- The carry chain is the increment: in each case the lanes that wrapped lose what the next lane gains. -/
theorem inc_eq_incLanes (c : Lanes4) : inc c = incLanes c := by
  apply eq_of_val128_toNat
  rw [inc_toNat, val128_toNat, val128_toNat]
  have b0 := c.l0.isLt
  have b1 := c.l1.isLt
  have b2 := c.l2.isLt
  have b3 := c.l3.isLt
  obtain ⟨h0, h⟩ | ⟨h0, h1, h⟩ | ⟨h0, h1, h2, h⟩ | ⟨h0, h1, h2, h⟩ := incLanes_cases c
  · have := word_toNat_add_one_lt h0
    simp only [h, BitVec.toNat_add, BitVec.ofNat_eq_ofNat, BitVec.toNat_ofNat]
    omega
  · have := word_toNat_add_one_lt h1
    simp only [h, h0, BitVec.toNat_add, BitVec.ofNat_eq_ofNat, BitVec.toNat_ofNat]
    omega
  · have := word_toNat_add_one_lt h2
    simp only [h, h0, h1, BitVec.toNat_add, BitVec.ofNat_eq_ofNat, BitVec.toNat_ofNat]
    omega
  · simp only [h, h0, h1, h2, BitVec.toNat_add, BitVec.ofNat_eq_ofNat, BitVec.toNat_ofNat]
    omega

/-- Settles O13: the clauses on the lanes are read off the case in which the carry chain stops. -/
theorem incrementIsTheCarryChain : Obligations.IncrementIsTheCarryChain := fun c => by
  refine ⟨inc_toNat c, inc_eq_incLanes c, ?_⟩
  rw [inc_eq_incLanes]
  obtain ⟨-, h⟩ | ⟨h0, -, h⟩ | ⟨h0, h1, -, h⟩ | ⟨h0, h1, h2, h⟩ := incLanes_cases c
  · simp [h]
  · simp [h, h0]
  · simp [h, h0, h1]
  · simp [h, h0, h1, h2]

/-! ### The lane forms of the two skips (R80, R81, R83, R84) -/

/-- A partial sum is its lane and its carry (R83): no third part is lost. -/
theorem sumLane_add_sumCarry (x y : Word) (carryIn : BitVec 1) :
    (sumLane (partialSum x y carryIn)).toNat + (sumCarry (partialSum x y carryIn)).toNat * 2 ^ 32 =
      x.toNat + y.toNat + carryIn.toNat := by
  have hx := x.isLt
  have hy := y.isLt
  have hk := carryIn.isLt
  rw [sumLane_toNat, sumCarry_toNat, partialSum_toNat]
  omega

theorem carry_setWidth_toNat (k : BitVec 1) : (k.setWidth 32).toNat = k.toNat :=
  BitVec.toNat_setWidth_of_le (by decide)

/-- Schoolbook addition is addition: the carries between the lanes cancel, the last is dropped. -/
theorem skip_eq_skipLanes (c : Lanes4) (off : DWord) : skip c off = skipLanes c off := by
  apply eq_of_val128_toNat
  rw [skip_toNat, val128_toNat, val128_toNat, ← halves_toNat off]
  simp only [skipLanes, BitVec.toNat_add, carry_setWidth_toNat]
  have h0 := sumLane_add_sumCarry c.l0 (lo32 off) 0
  generalize partialSum c.l0 (lo32 off) 0 = s0 at *
  have h1 := sumLane_add_sumCarry c.l1 (hi32 off) (sumCarry s0)
  generalize partialSum c.l1 (hi32 off) (sumCarry s0) = s1 at *
  have h2 := sumLane_add_sumCarry c.l2 0 (sumCarry s1)
  generalize partialSum c.l2 0 (sumCarry s1) = s2 at *
  have b0 := (sumLane s0).isLt
  have b1 := (sumLane s1).isLt
  have b2 := (sumLane s2).isLt
  simp only [BitVec.ofNat_eq_ofNat, BitVec.toNat_ofNat] at h0 h2
  omega

/-- Settles O14. -/
theorem skipIsTheLaneForm : Obligations.SkipIsTheLaneForm :=
  ⟨skip_toNat, skip_eq_skipLanes, by decide, by decide⟩

/-- The number in lanes 3:2 after a subsequence skip (R81). -/
theorem skipsub_high_toNat (c : Lanes4) (sub : DWord) :
    (skipsub c sub).l2.toNat + (skipsub c sub).l3.toNat * 2 ^ 32 =
      (c.l2.toNat + c.l3.toNat * 2 ^ 32 + sub.toNat) % 2 ^ 64 := by
  have h := halves_toNat (join64 c.l3 c.l2 + sub)
  rw [BitVec.toNat_add, join64_toNat] at h
  simp only [skipsub]
  omega

theorem skipsub_eq_skipsubLanes (c : Lanes4) (sub : DWord) : skipsub c sub = skipsubLanes c sub := by
  apply eq_of_val128_toNat
  rw [skipsub_toNat, val128_toNat, val128_toNat, ← halves_toNat sub]
  simp only [skipsubLanes, BitVec.toNat_add, carry_setWidth_toNat]
  have h2 := sumLane_add_sumCarry c.l2 (lo32 sub) 0
  generalize partialSum c.l2 (lo32 sub) 0 = s2 at *
  have b0 := c.l0.isLt
  have b1 := c.l1.isLt
  have b2 := (sumLane s2).isLt
  simp only [BitVec.ofNat_eq_ofNat, BitVec.toNat_ofNat] at h2
  omega

/-- Settles O15. -/
theorem subsequenceSkipIsTheLaneForm : Obligations.SubsequenceSkipIsTheLaneForm := fun c sub =>
  ⟨⟨rfl, rfl⟩, skipsub_high_toNat c sub, skipsub_toNat c sub, skipsub_eq_skipsubLanes c sub⟩

/-! ### The skip contract (R82) -/

theorem inc_iterate (c : Lanes4) (n : Nat) : inc^[n] c = counterAfter c n := by
  induction n with
  | zero => simp
  | succ n ih => rw [Function.iterate_succ_apply', ih, inc_eq_counterAfter, counterAfter_add]

/-- Two skips add their true offsets, even past `2^64`. -/
theorem skip_skip (c : Lanes4) (a b : DWord) : skip (skip c a) b = counterAfter c (a.toNat + b.toNat) := by
  rw [skip_eq_counterAfter, skip_eq_counterAfter, counterAfter_add]

/-- Settles O16: every clause is about how many vectors further the counter is. -/
theorem skipIsRepeatedIncrement : Obligations.SkipIsRepeatedIncrement := by
  refine ⟨fun c off => ?_, fun c a b => ?_, fun c a b hab => ?_, fun c a b => ?_⟩
  · rw [inc_iterate, skip_eq_counterAfter]
  · rw [skip_skip, skip_skip, Nat.add_comm]
  · rw [skip_skip, skip_eq_counterAfter, BitVec.toNat_add_of_lt hab]
  · rw [skip_skip, counterAfter_toNat]

/-! ### Bijections and exchanges (R85, R86) -/

/-- The subsequence skip adds `sub*2^64` to the 128-bit value (R81), as `val128_skip` says of `skip`. -/
theorem val128_skipsub (c : Lanes4) (sub : DWord) :
    val128 (skipsub c sub) = val128 c + BitVec.ofNat 128 (sub.toNat * 2 ^ 64) := by
  apply BitVec.eq_of_toNat_eq
  rw [skipsub_toNat, BitVec.toNat_add, BitVec.toNat_ofNat, Nat.add_mod_mod]

/-- A move that adds a fixed number is a bijection: subtracting the number undoes it. -/
theorem bijective_of_val128_add {f : Lanes4 → Lanes4} {n : QWord} (h : ∀ c, val128 (f c) = val128 c + n) :
    Function.Bijective f := by
  constructor
  · intro c d hcd
    apply val128_injective
    rw [← add_left_inj n, ← h, ← h, hcd]
  · intro d
    refine ⟨lanes128 (val128 d - n), val128_injective ?_⟩
    rw [h, val128_lanes128, sub_add_cancel]

/-- Settles O17: a true sum of at least `2^128` is below `2 * 2^128`, so the wrap takes `2^128` off once. -/
theorem counterMovesAreBijectionsThatWrap : Obligations.CounterMovesAreBijectionsThatWrap := by
  refine ⟨bijective_of_val128_add val128_inc, fun off => bijective_of_val128_add (val128_skip · off),
    fun sub => bijective_of_val128_add (val128_skipsub · sub), by decide, fun c off hwrap => ?_, fun c sub hwrap => ?_⟩
  · have hc := (val128 c).isLt
    have hoff := off.isLt
    rw [skip_toNat]
    omega
  · have hc := (val128 c).isLt
    have hsub := sub.isLt
    rw [skipsub_toNat]
    omega

theorem skip_skipsub_comm (c : Lanes4) (s o : DWord) : skip (skipsub c s) o = skipsub (skip c o) s := by
  apply val128_injective
  simp only [val128_skip, val128_skipsub, add_right_comm]

/-- An addition without a carry out of lane 1 leaves lanes 2 and 3 (R86). -/
theorem high_lanes_of_no_carry {c d : Lanes4} {n : Nat} (hn : c.l0.toNat + c.l1.toNat * 2 ^ 32 + n < 2 ^ 64)
    (h : (val128 d).toNat = ((val128 c).toNat + n) % 2 ^ 128) : d.l2 = c.l2 ∧ d.l3 = c.l3 := by
  rw [val128_toNat, val128_toNat] at h
  have c2 := c.l2.isLt
  have c3 := c.l3.isLt
  have d0 := d.l0.isLt
  have d1 := d.l1.isLt
  have d2 := d.l2.isLt
  exact ⟨BitVec.eq_of_toNat_eq (by omega), BitVec.eq_of_toNat_eq (by omega)⟩

/-- From the zero counter no carry arises: the offset fills lanes 1:0 and the subsequence lanes 3:2 (R86, R87). -/
theorem initctr_eq_halves (sub off : DWord) : initctr sub off = ⟨lo32 off, hi32 off, lo32 sub, hi32 sub⟩ := by
  apply eq_of_val128_toNat
  rw [initctr_toNat, val128_toNat, ← halves_toNat off, ← halves_toNat sub]
  ring

/-- Settles O18: the increment is the skip by one. -/
theorem counterMovesCombine : Obligations.CounterMovesCombine := by
  refine ⟨fun c s o => ⟨skip_skipsub_comm c s o, ?_⟩, fun c s => ⟨rfl, rfl⟩,
    fun c o h => high_lanes_of_no_carry h (skip_toNat c o), fun c h => high_lanes_of_no_carry h (inc_toNat c),
    fun s o => initctr_eq_halves s o⟩
  rw [← skip_one, ← skip_one, skip_skipsub_comm]

end Sys2Proof.Machine
end

section
/-! SUPPORT. The stateful commands one by one (spec/43_stateful_commands.md R87 to R92, R97): what construction builds, each
command's word, next state and refusal. -/

namespace Sys2Proof.Machine

/-- Settles O19: the key is the slot's pair of halves, which `slotCOfKey` puts together again. -/
theorem constructionSplitsItsArguments : Obligations.ConstructionSplitsItsArguments :=
  ⟨fun sub off => ⟨rfl, initctr_eq_halves sub off⟩, fun _ => rfl,
    Function.bijective_iff_has_inverse.mpr ⟨slotCOfKey, slotCOfKey_slot, keyOfSlot_slot⟩⟩

/-- Clearing the cursor as one record update (R89). -/
theorem State.clearPos_eq (s : State) : s.clearPos = { s with pos := if s.cfg.variant = .single then 0 else s.pos } := by
  by_cases hv : s.cfg.variant = .single
  · simp only [State.clearPos, State.setPos, hv, if_true]
  · simp only [State.clearPos, hv, if_false]

/-- `INIT` as one record update (R89). -/
theorem exec_init_eq (seed sub off : DWord) (s : State) : exec (.init seed sub off) s = .next { s with
    key := initkey seed
    ctr := initctr sub off
    buf := philox s.cfg (initctr sub off) (initkey seed)
    pos := if s.cfg.variant = .single then 0 else s.pos
    inited := true } := by
  rw [exec_init, State.clearPos_eq]
  rfl

/-- Settles O20. -/
theorem initConstructsTheGenerator : Obligations.InitConstructsTheGenerator := fun seed sub off s => by
  refine ⟨?_, ?_⟩
  · rw [decode_packFields, decodeFields_init _ rfl rfl]
  · rw [exec_init_eq, initctr_eq_halves]
    rfl

/-- The guard of R97, for every command that has it. -/
theorem exec_notInitialised {i : Instr} {s : State} (hwf : i.wellFormed s.cfg.variant = true)
    (hn : needsInited i = true) (hi : s.inited = false) : exec i s = .refused .notInitialised := by
  cases i with
  | skip off => exact exec_skip_uninited hi off
  | nexts => exact exec_nexts_uninited (Instr.wellFormed_nexts.mp hwf) hi
  | nextv => exact exec_nextv_uninited (Instr.wellFormed_nextv.mp hwf) hi
  | init seed sub off => cases hn
  | perm c k => cases hn
  | genv seed sub off j => cases hn
  | gens seed sub off j => cases hn

/-- Settles O21. -/
theorem nextvReturnsTheBatchAndAdvances : Obligations.NextvReturnsTheBatchAndAdvances := fun s hv => by
  refine ⟨?_, fun hi => ⟨inc s.ctr, inc_toNat s.ctr, exec_nextv hv hi⟩, exec_nextv_uninited hv⟩
  rw [hv, decode_packFields, decodeFields_nextv rfl rfl rfl rfl rfl]

theorem lanesInOrder_getElem? (b : Lanes4) (p : BitVec 2) : (lanesInOrder b)[p.toNat]? = some (laneAt b p) := by
  obtain rfl | rfl | rfl | rfl : p = 0 ∨ p = 1 ∨ p = 2 ∨ p = 3 := by bv_omega
  all_goals rfl

/-- The response word of a lane is zero above it (R57). -/
theorem laneResponse_above (x : Word) : (laneResponse x).extractLsb' 32 96 = 0 := by
  apply BitVec.eq_of_toNat_eq
  have hx := x.isLt
  simp only [laneResponse, BitVec.extractLsb'_toNat, BitVec.toNat_setWidth, Nat.shiftRight_eq_div_pow,
    BitVec.ofNat_eq_ofNat, BitVec.toNat_ofNat]
  omega

/-- Settles O22: the cursor wraps at lane 3 and moves otherwise. -/
theorem nextsReturnsTheLaneUnderTheCursor : Obligations.NextsReturnsTheLaneUnderTheCursor := fun s hv => by
  refine ⟨?_, fun hi => ⟨laneResponse (laneAt s.buf s.pos), ?_, laneResponse_above _, fun hp => ?_, fun hp => ?_⟩,
    exec_nexts_uninited hv⟩
  · rw [hv, decode_packFields, decodeFields_nexts rfl rfl rfl rfl rfl]
  · obtain ⟨hlow, -⟩ := laneResponse_lanes (laneAt s.buf s.pos)
    rw [hlow]
    exact lanesInOrder_getElem? s.buf s.pos
  · exact ⟨inc s.ctr, inc_toNat s.ctr, exec_nexts_wrap hv hi (BitVec.eq_of_toNat_eq hp)⟩
  · have hne : s.pos ≠ 3 := fun h => hp (by rw [h]; rfl)
    have hpos : BitVec.ofNat 2 (s.pos.toNat + 1) = s.pos + 1 := by simp [BitVec.ofNat_add]
    rw [hpos]
    exact exec_nexts_move hv hi hne

theorem exec_skip_next {s t : State} {off : DWord} (h : exec (.skip off) s = .next t) :
    s.inited = true ∧ t = (s.setCtr (skip s.ctr off)).refill := by
  simpa using exec_next_cases h

/-- Settles O23: the exchange is that of `skip_skip`, since a skip leaves all that a skip reads but `CTR`. -/
theorem skipMovesTheCounterAndRefills : Obligations.SkipMovesTheCounterAndRefills := by
  refine ⟨fun s off => ⟨?_, fun hi => ⟨skip s.ctr off, skip_toNat s.ctr off, exec_skip hi off⟩,
    fun hi => exec_skip_uninited hi off⟩, fun s hi hfresh => ?_, fun s t u a b ha hb => ?_⟩
  · rw [decode_packFields, decodeFields_skip _ rfl rfl rfl rfl]
  · have hstay : skip s.ctr 0 = s.ctr := by rw [skip_eq_counterAfter]; exact counterAfter_zero s.ctr
    rw [exec_skip hi, hstay, State.refill, State.setCtr_cfg, State.setCtr_ctr, State.setCtr_key, ← hfresh hi]
    rfl
  · obtain ⟨hi, rfl⟩ := exec_skip_next ha
    obtain ⟨-, rfl⟩ := exec_skip_next hb
    refine ⟨_, exec_skip hi b, ?_⟩
    have hcomm : skip (skip s.ctr b) a = skip (skip s.ctr a) b := by rw [skip_skip, skip_skip, Nat.add_comm]
    rw [exec_skip (by simpa using hi), State.refill_ctr, State.setCtr_ctr, hcomm]
    rfl

/-- Settles O34: a refused command refuses the step that takes its word, and so the run. -/
theorem commandsBeforeInitAreRefused : Obligations.CommandsBeforeInitAreRefused := fun s hi => by
  refine ⟨fun hv => exec_nextv_uninited hv hi, fun hv => exec_nexts_uninited hv hi, exec_skip_uninited hi,
    fun w later i hin hd hneeds => ?_, fun a b c => ⟨_, exec_init a b c s⟩, fun c k => ⟨_, exec_perm c k s⟩,
    fun a b c d => ⟨_, exec_genv a b c d s⟩, fun a b c d => ⟨_, exec_gens a b c d s⟩⟩
  have hn : needsInited i = true := by
    obtain rfl | rfl | ⟨off, rfl⟩ := hneeds <;> rfl
  refine runSteps_refused ?_
  rw [step_command hin hd]
  exact exec_notInitialised (wellFormed_of_decode hd) hn hi

end Sys2Proof.Machine
end

section
/-! SUPPORT. After an `INIT` the history of an instance is gone (spec/43_stateful_commands.md R96, R98): a command is blind to
the two channels, so runs of instances that are alike but for earlier responses stay so and respond the same. -/

namespace Sys2Proof.Machine

/-- No command looks at what is presented or at what stands on the response channel: with other contents there it does the
same, and appends the same words (R45, R56). -/
theorem exec_channels {i : Instr} {s t : State} (h : exec i s = .next t) :
    ∃ l : List ResponseWord, t.responses = s.responses ++ l ∧ ∀ (inputs : List HostEvent) (rs : List ResponseWord),
      exec i { s with inputs := inputs, responses := rs } = .next { t with inputs := inputs, responses := rs ++ l } := by
  obtain ⟨seed, sub, off, rfl, -⟩ | ⟨off, rfl, hi, rfl⟩ | ⟨rfl, hv, hi, hp, rfl⟩ | ⟨rfl, hv, hi, hp, rfl⟩ |
    ⟨rfl, hv, hi, rfl⟩ | ⟨c, k, rfl, rfl⟩ | ⟨seed, sub, off, j, rfl, rfl⟩ | ⟨seed, sub, off, j, rfl, rfl⟩ :=
    exec_next_cases h
  · rw [exec_init_eq] at h
    cases h
    exact ⟨[], (List.append_nil _).symm, fun inputs rs => by rw [exec_init_eq, List.append_nil]⟩
  · refine ⟨[], (List.append_nil _).symm, fun inputs rs => ?_⟩
    rw [List.append_nil]
    exact exec_skip (s := { s with inputs := inputs, responses := rs }) hi off
  · exact ⟨[_], rfl, fun _ _ => exec_nexts_wrap hv hi hp⟩
  · exact ⟨[_], rfl, fun _ _ => exec_nexts_move hv hi hp⟩
  · exact ⟨[_], rfl, fun _ _ => exec_nextv hv hi⟩
  all_goals exact ⟨[_], rfl, fun _ _ => rfl⟩

/-- Two instances that are alike but for the responses they have given so far. -/
def State.alikeFromHere (s t : State) : Prop := State.alike { s with responses := t.responses } t

/-- A step of one that takes no reset is a step of the other, with the same response. -/
theorem step_alikeFromHere {s t s' : State} (h : s.alikeFromHere t) (hwords : HostEvent.reset ∉ s.inputs)
    (hs : step s = .next s') : ∃ (t' : State) (l : List ResponseWord), step t = .next t' ∧
      s'.responses = s.responses ++ l ∧ t'.responses = t.responses ++ l ∧ s'.alikeFromHere t' ∧
      HostEvent.reset ∉ s'.inputs := by
  have hcfg : s.cfg = t.cfg := h.cfg_eq
  have hinputs : s.inputs = t.inputs := h.inputs_eq
  obtain ⟨hin, rfl⟩ | ⟨later, hin, -⟩ | ⟨w, later, i, hin, hd, hx⟩ := step_next_cases hs
  · exact ⟨t, [], step_waiting (hinputs ▸ hin), by simp, by simp, h, hwords⟩
  · simp [hin] at hwords
  · obtain ⟨l, hl, hother⟩ := exec_channels hx
    have halike := exec_alike (h.withInputs later) i
    rw [hother later t.responses] at halike
    obtain ⟨t', ht, hcfg', hinited', hinputs', hresponses', hregs'⟩ := halike.exists_next
    have hin' : s'.inputs = later := exec_inputs hx
    refine ⟨t', l, ?_, hl, hresponses'.symm, ⟨hcfg', hinited', hin'.trans hinputs', rfl, hregs'⟩, ?_⟩
    · rw [step_command (hinputs ▸ hin) (hcfg ▸ hd), ht]
    · rw [hin, List.mem_cons, not_or] at hwords
      obtain ⟨-, hlater⟩ := hwords
      rwa [hin']

/-- So it is for runs. -/
theorem runSteps_alikeFromHere {k : Nat} {s t s' : State} (h : s.alikeFromHere t) (hwords : HostEvent.reset ∉ s.inputs)
    (hs : Host.Core.run Sys2Proof.core k s = .next s') : ∃ (t' : State) (l : List ResponseWord),
      Host.Core.run Sys2Proof.core k t = .next t' ∧ s'.responses = s.responses ++ l ∧
        t'.responses = t.responses ++ l := by
  induction k generalizing s t with
  | zero =>
    cases hs
    exact ⟨t, [], rfl, (List.append_nil _).symm, (List.append_nil _).symm⟩
  | succ k ih =>
    obtain ⟨u, hu, hrun⟩ := runSteps_succ_next hs
    obtain ⟨v, first, hv, hus, hvt, hnext, hwords'⟩ := step_alikeFromHere h hwords hu
    obtain ⟨t', rest, hrun', hs', ht'⟩ := ih hnext hwords' hrun
    refine ⟨t', first ++ rest, ?_, ?_, ?_⟩
    · rw [runSteps_next hv, hrun']
    · rw [hs', hus, List.append_assoc]
    · rw [ht', hvt, List.append_assoc]

/-- An `INIT` responds nothing and leaves two instances of one configuration alike from there on, whatever they were (R98). -/
theorem exec_init_alikeFromHere {s t : State} (hcfg : s.cfg = t.cfg) (hinputs : s.inputs = t.inputs)
    (seed sub off : DWord) : ∃ s' t' : State,
      exec (.init seed sub off) s = .next s' ∧ exec (.init seed sub off) t = .next t' ∧ s'.alikeFromHere t' ∧ s'.inputs = s.inputs ∧ s'.responses = s.responses ∧ t'.responses = t.responses := by
  refine ⟨_, _, exec_init_eq seed sub off s, exec_init_eq seed sub off t,
    ⟨hcfg, rfl, hinputs, rfl, fun _ => ⟨rfl, rfl, ?_, fun hv => ?_⟩⟩, rfl, rfl, rfl⟩
  · simp only [hcfg]
  · have hs : s.cfg.variant = .single := hv
    have ht : t.cfg.variant = .single := hcfg ▸ hs
    simp only [hs, ht, if_true]

/-- Settles O41: with no step taken there is no response; the first step is the `INIT`, and from it on the two are alike. -/
theorem initErasesHistory : Obligations.InitErasesHistory := fun s t seed sub off ws hcfg hin hinputs k s' hs => by
  cases k with
  | zero =>
    cases hs
    exact ⟨t, [], rfl, (List.append_nil _).symm, (List.append_nil _).symm⟩
  | succ k =>
    have hd : decode s.cfg.variant (encode (.init seed sub off)) = .ok (.init seed sub off) := decode_encode rfl
    obtain ⟨u, v, hu, hv, halike, huin, hures, hvres⟩ :=
      exec_init_alikeFromHere (s := { s with inputs := ws.map HostEvent.word })
        (t := { t with inputs := ws.map HostEvent.word }) hcfg rfl seed sub off
    have hwords : HostEvent.reset ∉ u.inputs := by simp [huin]
    rw [runSteps_next ((step_command hin hd).trans hu)] at hs
    rw [runSteps_next ((step_command (hinputs.trans hin) (hcfg ▸ hd)).trans hv)]
    obtain ⟨t', l, hrun, hs', ht'⟩ := runSteps_alikeFromHere halike hwords hs
    exact ⟨t', l, hrun, hs'.trans (by rw [hures]), ht'.trans (by rw [hvres])⟩

end Sys2Proof.Machine
end

section
/-! SUPPORT. The streams (spec/43_stateful_commands.md section 3, R93 to R95): commands that complete one after the other
compose, and an instance stands at one vector of its stream, or at one scalar; an output command moves it by one, and `SKIP n` by
`n` vectors. -/

namespace Sys2Proof.Machine

/-! ### Commands that complete one after the other -/

/-- Presented with these commands, `s` completes them all, one a step, and stands as `t` before whatever comes next. -/
def State.completes (s : State) (is : List Instr) (t : State) : Prop :=
  ∀ later : List Instr, Host.Core.run Sys2Proof.core is.length (s.given (is ++ later)) = .next (t.given later)

theorem wellFormed_of_exec_next {i : Instr} {s t : State} (h : exec i s = .next t) : i.wellFormed s.cfg.variant = true := by
  obtain ⟨seed, sub, off, rfl, -⟩ | ⟨off, rfl, -⟩ | ⟨rfl, hv, -⟩ | ⟨rfl, hv, -⟩ | ⟨rfl, hv, -⟩ |
    ⟨c, k, rfl, -⟩ | ⟨seed, sub, off, j, rfl, -⟩ | ⟨seed, sub, off, j, rfl, -⟩ := exec_next_cases h
  · rfl
  · rfl
  · exact Instr.wellFormed_nexts.mpr hv
  · exact Instr.wellFormed_nexts.mpr hv
  · exact Instr.wellFormed_nextv.mpr hv
  all_goals rfl

/-- A step completes one command: its word decodes to it, and its meaning is blind to what is presented after it. -/
theorem State.completes_of_exec {i : Instr} {s t : State} (h : exec i s = .next t) : s.completes [i] t := by
  intro later
  obtain ⟨l, hl, hother⟩ := exec_channels h
  have hd : decode s.cfg.variant (encode i) = .ok i := decode_encode (wellFormed_of_exec_next h)
  have hstep : step (s.given (i :: later)) = exec i (s.given later) := step_command (s := s.given (i :: later)) rfl hd
  have hexec : exec i (s.given later) = .next (t.given later) := by
    rw [State.given, State.given, hl]
    exact hother (commandInputs later) s.responses
  exact runSteps_next (hstep.trans hexec) 0

theorem State.completes.append {s t u : State} {is js : List Instr} (h : s.completes is t) (h' : t.completes js u) :
    s.completes (is ++ js) u := by
  intro later
  rw [List.length_append, List.append_assoc, runSteps_add (h (js ++ later)), h' later]

theorem State.completes.cons {i : Instr} {s t u : State} {is : List Instr} (h : exec i s = .next t) (h' : t.completes is u) :
    s.completes (i :: is) u := (State.completes_of_exec h).append h'

/-- One command over and over, along a sequence of states that each command moves on by one. -/
theorem State.completes_replicate {i : Instr} {f : Nat → State} (h : ∀ k, exec i (f k) = .next (f (k + 1))) (m : Nat) :
    (f 0).completes (List.replicate m i) (f m) := by
  induction m with
  | zero => exact fun _ => rfl
  | succ m ih =>
    rw [List.replicate_succ']
    exact ih.append (State.completes_of_exec (h m))

/-- The run of a completed list of commands, with its length as a number of steps. -/
theorem State.completes.run {s t : State} {is : List Instr} {n : Nat} (h : s.completes is t) (hn : is.length = n) :
    Host.Core.run Sys2Proof.core n (s.given is) = .next (t.given []) := by
  have hrun := h []
  rwa [List.append_nil, hn] at hrun

theorem State.startOfRun_map_encode (cfg : Config) (is : List Instr) :
    State.startOfRun cfg (is.map encode) = (State.resetWith cfg).given is := by
  simp [State.startOfRun, State.present, State.given, commandInputs, Function.comp_def]

/-- The result of a run of commands that complete from reset (R127). -/
theorem runResult_of_completes {cfg : Config} {is : List Instr} {t : State} (h : (State.resetWith cfg).completes is t) :
    runResult cfg (is.map encode) = some t.responses := by
  rw [runResult, State.startOfRun_map_encode, h.run (List.length_map _).symm]
  rfl

/-- Response words placed on the channel one after the other. -/
def State.respondAll (s : State) (rs : List ResponseWord) : State := { s with responses := s.responses ++ rs }

@[simp] theorem State.respondAll_nil (s : State) : s.respondAll [] = s := by
  simp [State.respondAll]

theorem State.respondAll_respond (s : State) (rs : List ResponseWord) (r : ResponseWord) :
    (s.respondAll rs).respond r = s.respondAll (rs ++ [r]) := by
  simp [State.respondAll, State.respond]

/-- An output command over and over, where its response depends on the place in the stream alone. -/
theorem State.completes_outputs {i : Instr} {cfg : Config} {out : Nat → ResponseWord} {at' : State → Nat → State}
    (h : ∀ s k, s.cfg = cfg → exec i (at' s k) = .next (at' (s.respond (out k)) (k + 1))) {s : State} (hs : s.cfg = cfg)
    (k m : Nat) : (at' s k).completes (List.replicate m i)
      (at' (s.respondAll ((List.range m).map fun j => out (k + j))) (k + m)) := by
  have hall := State.completes_replicate (i := i)
    (f := fun m => at' (s.respondAll ((List.range m).map fun j => out (k + j))) (k + m)) (fun m => ?_) m
  · simpa using hall
  · rw [h (s.respondAll _) _ hs, State.respondAll_respond, List.range_succ, List.map_append]
    rfl

/-! ### Where an instance stands in its stream -/

section
variable (seed sub off : DWord)

/-- `s`, initialised with the arguments of the stream and standing at its vector `j`: the counter is `j` past the first and
`V(j)` is buffered (R93). -/
def State.atVector (s : State) (j : Nat) : State := { s with
  ctr := counterAfter (initctr sub off) j
  key := initkey seed
  buf := streamVector s.cfg seed sub off j
  inited := true }

/-- `s` standing at scalar `k` of the flattened stream: at lane `k mod 4` of vector `k div 4` (R93). -/
def State.atScalar (s : State) (k : Nat) : State := (s.setPos (BitVec.ofNat 2 k)).atVector seed sub off (k / 4)

/-- `INIT` puts an instance at vector 0, with the cursor of a `SINGLE` instance cleared (R89). -/
theorem exec_init_atVector (s : State) : exec (.init seed sub off) s = .next (s.clearPos.atVector seed sub off 0) := by
  rw [exec_init_eq, State.clearPos_eq, State.atVector, streamVector, counterAfter_zero]

theorem State.clearPos_of_vector {s : State} (hv : s.cfg.variant = .vector) : s.clearPos = s := by
  simp [State.clearPos, hv]

theorem State.clearPos_atVector_of_single {s : State} (hv : s.cfg.variant = .single) :
    s.clearPos.atVector seed sub off 0 = s.atScalar seed sub off 0 := by
  rw [State.clearPos, if_pos hv]
  rfl

theorem State.advance_atVector (s : State) (j : Nat) :
    (s.atVector seed sub off j).advance = s.atVector seed sub off (j + 1) := by
  simp only [State.advance, State.setCtr, State.refill, State.atVector, streamVector, inc_eq_counterAfter, counterAfter_add]

/-- `NEXTV` at vector `j` responds `V(j)` and moves on to the next. -/
theorem exec_nextv_atVector {s : State} (hv : s.cfg.variant = .vector) (j : Nat) : exec .nextv (s.atVector seed sub off j) =
    .next ((s.respond (batchResponse (streamVector s.cfg seed sub off j))).atVector seed sub off (j + 1)) := by
  rw [exec_nextv (s := s.atVector seed sub off j) hv rfl, State.advance_atVector]
  rfl

/-- `NEXTS` at scalar `k` responds that scalar and moves on to the next, which after lane 3 is in the next vector. -/
theorem exec_nexts_atScalar {s : State} (hv : s.cfg.variant = .single) (k : Nat) : exec .nexts (s.atScalar seed sub off k) =
    .next ((s.respond (laneResponse (streamScalar s.cfg seed sub off k))).atScalar seed sub off (k + 1)) := by
  have hpos : (BitVec.ofNat 2 k).toNat = k % 4 := BitVec.toNat_ofNat k 2
  by_cases hlast : k % 4 = 3
  · have hp : (s.atScalar seed sub off k).pos = 3 := BitVec.eq_of_toNat_eq (hpos.trans hlast)
    have hvec : (k + 1) / 4 = k / 4 + 1 := by omega
    have hlane : BitVec.ofNat 2 (k + 1) = 0 := BitVec.eq_of_toNat_eq (by simp; omega)
    rw [exec_nexts_wrap (s := s.atScalar seed sub off k) hv rfl hp, State.atScalar, State.atScalar, State.advance_atVector,
      hvec, hlane]
    rfl
  · have hp : (s.atScalar seed sub off k).pos ≠ 3 := fun h => hlast (hpos.symm.trans (congrArg BitVec.toNat h))
    have hvec : (k + 1) / 4 = k / 4 := by omega
    rw [exec_nexts_move (s := s.atScalar seed sub off k) hv rfl hp, State.atScalar, State.atScalar, hvec, BitVec.ofNat_add]
    rfl

/-- `SKIP n` moves on by `n` vectors and responds nothing (R93). -/
theorem exec_skip_atVector (s : State) (j : Nat) (n : DWord) :
    exec (.skip n) (s.atVector seed sub off j) = .next (s.atVector seed sub off (j + n.toNat)) := by
  rw [exec_skip rfl]
  simp only [State.setCtr, State.refill, State.atVector, streamVector, skip_eq_counterAfter, counterAfter_add]

/-- `SKIP n` moves on by `4n` scalars and keeps the cursor (R93). -/
theorem exec_skip_atScalar (s : State) (k : Nat) (n : DWord) :
    exec (.skip n) (s.atScalar seed sub off k) = .next (s.atScalar seed sub off (k + 4 * n.toNat)) := by
  have hvec : (k + 4 * n.toNat) / 4 = k / 4 + n.toNat := by omega
  have hlane : BitVec.ofNat 2 (k + 4 * n.toNat) = BitVec.ofNat 2 k := BitVec.eq_of_toNat_eq (by simp)
  rw [State.atScalar, State.atScalar, exec_skip_atVector, hvec, hlane]

theorem State.completes_nextv {s : State} (hv : s.cfg.variant = .vector) (j m : Nat) :
    (s.atVector seed sub off j).completes (List.replicate m .nextv)
      ((s.respondAll ((List.range m).map fun i =>
        batchResponse (streamVector s.cfg seed sub off (j + i)))).atVector seed sub off (j + m)) :=
  State.completes_outputs (cfg := s.cfg) (out := fun j => batchResponse (streamVector s.cfg seed sub off j))
    (at' := fun s j => s.atVector seed sub off j)
    (fun _ j hu => hu ▸ exec_nextv_atVector seed sub off (hu ▸ hv) j) rfl j m

theorem State.completes_nexts {s : State} (hv : s.cfg.variant = .single) (k m : Nat) :
    (s.atScalar seed sub off k).completes (List.replicate m .nexts)
      ((s.respondAll ((List.range m).map fun i =>
        laneResponse (streamScalar s.cfg seed sub off (k + i)))).atScalar seed sub off (k + m)) :=
  State.completes_outputs (cfg := s.cfg) (out := fun k => laneResponse (streamScalar s.cfg seed sub off k))
    (at' := fun s k => s.atScalar seed sub off k)
    (fun _ k hu => hu ▸ exec_nexts_atScalar seed sub off (hu ▸ hv) k) rfl k m

/-- `SKIP n` among the `NEXTV`s puts `n` more vectors before every later output (R93, R133). -/
theorem State.completes_skip_nextv {s : State} (hv : s.cfg.variant = .vector) (j m : Nat) (n : DWord) :
    (s.atVector seed sub off j).completes (.skip n :: List.replicate m .nextv)
      ((s.respondAll ((List.range m).map fun i =>
        batchResponse (streamVector s.cfg seed sub off (j + i + n.toNat)))).atVector seed sub off (j + n.toNat + m)) := by
  simp only [Nat.add_right_comm j _ n.toNat]
  exact (State.completes_nextv seed sub off hv (j + n.toNat) m).cons (exec_skip_atVector seed sub off s j n)

/-- `SKIP n` among the `NEXTS`s puts `4n` more scalars before every later output (R93, R133). -/
theorem State.completes_skip_nexts {s : State} (hv : s.cfg.variant = .single) (k m : Nat) (n : DWord) :
    (s.atScalar seed sub off k).completes (.skip n :: List.replicate m .nexts)
      ((s.respondAll ((List.range m).map fun i =>
        laneResponse (streamScalar s.cfg seed sub off (k + i + 4 * n.toNat)))).atScalar seed sub off (k + 4 * n.toNat + m)) := by
  simp only [Nat.add_right_comm k _ (4 * n.toNat)]
  exact (State.completes_nexts seed sub off hv (k + 4 * n.toNat) m).cons (exec_skip_atScalar seed sub off s k n)

/-- The first `m` batches of the stream. -/
def vectorResponses (cfg : Config) (m : Nat) : List ResponseWord :=
  (List.range m).map fun j => batchResponse (streamVector cfg seed sub off j)

/-- The first `m` scalars of the stream. -/
def scalarResponses (cfg : Config) (m : Nat) : List ResponseWord :=
  (List.range m).map fun i => laneResponse (streamScalar cfg seed sub off i)

/-- `INIT` and then `NEXTV` over and over (R93). -/
theorem State.completes_init_nextv {s : State} (hv : s.cfg.variant = .vector) (m : Nat) :
    s.completes (.init seed sub off :: List.replicate m .nextv)
      ((s.respondAll (vectorResponses seed sub off s.cfg m)).atVector seed sub off m) := by
  have hinit := exec_init_atVector seed sub off s
  rw [State.clearPos_of_vector hv] at hinit
  simpa [vectorResponses] using (State.completes_nextv seed sub off hv 0 m).cons hinit

/-- `INIT` and then `NEXTS` over and over (R93). -/
theorem State.completes_init_nexts {s : State} (hv : s.cfg.variant = .single) (m : Nat) :
    s.completes (.init seed sub off :: List.replicate m .nexts)
      ((s.respondAll (scalarResponses seed sub off s.cfg m)).atScalar seed sub off m) := by
  have hinit := exec_init_atVector seed sub off s
  rw [State.clearPos_atVector_of_single seed sub off hv] at hinit
  simpa [scalarResponses] using (State.completes_nexts seed sub off hv 0 m).cons hinit

end

/-- Settles O43. -/
theorem vectorStreamIsTheCounterSequence : Obligations.VectorStreamIsTheCounterSequence := fun _ seed sub off m hv =>
  ⟨_, (State.completes_init_nextv seed sub off hv m).run (by simp), rfl, rfl, rfl⟩

/-- Settles O44. -/
theorem scalarStreamIsTheFlattenedSequence : Obligations.ScalarStreamIsTheFlattenedSequence := fun _ seed sub off m hv =>
  ⟨_, (State.completes_init_nexts seed sub off hv m).run (by simp), rfl, rfl, BitVec.toNat_ofNat m 2, rfl⟩

/-- Settles O45: the outputs before the skip, then the skip and the outputs after it. -/
theorem skipShiftsTheStream : Obligations.SkipShiftsTheStream := fun s seed sub off n a b => by
  refine ⟨fun hv => ?_, fun hv => ?_⟩
  · have hbefore := State.completes_init_nextv seed sub off hv a
    have hafter := State.completes_skip_nextv seed sub off
      (s := s.respondAll (vectorResponses seed sub off s.cfg a)) hv a b n
    exact ⟨_, (hbefore.append hafter).run (by simp; omega), rfl⟩
  · have hbefore := State.completes_init_nexts seed sub off hv a
    have hafter := State.completes_skip_nexts seed sub off
      (s := s.respondAll (scalarResponses seed sub off s.cfg a)) hv a b n
    exact ⟨_, (hbefore.append hafter).run (by simp; omega), rfl⟩

/-! ### The two engines (R94) -/

theorem bumpedRounds_variant (cfg : Config) (v : Variant) (n : Nat) (x : Lanes4) (y : Lanes2) :
    bumpedRounds { cfg with variant := v } n x y = bumpedRounds cfg n x y := by
  induction n generalizing x y with
  | zero => rfl
  | succ n ih => exact ih _ _

/-- The variant does not enter the stream (R9, R94). -/
theorem streamVector_variant (cfg : Config) (v : Variant) (seed sub off : DWord) (j : Nat) :
    streamVector { cfg with variant := v } seed sub off j = streamVector cfg seed sub off j :=
  bumpedRounds_variant cfg v _ _ _

/-- Scalar `4m + j` is lane `j` of `V(m)` (R93). -/
theorem streamScalar_lane (cfg : Config) (seed sub off : DWord) (m : Nat) {j : Nat} (hj : j < 4) :
    streamScalar cfg seed sub off (4 * m + j) = laneAt (streamVector cfg seed sub off m) (BitVec.ofNat 2 j) := by
  have hvec : (4 * m + j) / 4 = m := by omega
  have hlane : BitVec.ofNat 2 (4 * m + j) = BitVec.ofNat 2 j := BitVec.eq_of_toNat_eq (by simp)
  rw [streamScalar, hvec, hlane]

theorem lanesInOrder_eq_map (b : Lanes4) : lanesInOrder b = (List.range 4).map fun j => laneAt b (BitVec.ofNat 2 j) := rfl

/-- The scalars of a stream are its batches flattened in lane order (R94). -/
theorem map_streamScalar_eq_flatMap (cfg : Config) (seed sub off : DWord) (m : Nat) :
    (List.range (4 * m)).map (streamScalar cfg seed sub off) =
      (List.range m).flatMap fun j => lanesInOrder (streamVector cfg seed sub off j) := by
  induction m with
  | zero => rfl
  | succ m ih =>
    rw [Nat.mul_succ, List.range_add, List.map_append, ih, List.range_succ (n := m), List.flatMap_append, List.map_map,
      List.flatMap_singleton, lanesInOrder_eq_map]
    exact congrArg _ (List.map_congr_left fun j hj => streamScalar_lane cfg seed sub off m (List.mem_range.mp hj))

theorem scalarOfResponse_laneResponse (x : Word) : scalarOfResponse (laneResponse x) = x := by
  obtain ⟨hlow, -⟩ := laneResponse_lanes x
  exact hlow

theorem lanesOfResponse_batchResponse (b : Lanes4) : lanesOfResponse (batchResponse b) = lanesInOrder b :=
  congrArg lanesInOrder (lanes128_val128 b)

theorem map_scalarOfResponse (cfg : Config) (seed sub off : DWord) (m : Nat) :
    (scalarResponses seed sub off cfg m).map scalarOfResponse = (List.range m).map (streamScalar cfg seed sub off) := by
  simp [scalarResponses, scalarOfResponse_laneResponse]

theorem flatMap_lanesOfResponse (cfg : Config) (seed sub off : DWord) (m : Nat) :
    (vectorResponses seed sub off cfg m).flatMap lanesOfResponse =
      (List.range m).flatMap fun j => lanesInOrder (streamVector cfg seed sub off j) := by
  simp [vectorResponses, List.flatMap_map, lanesOfResponse_batchResponse]

/-- Settles O46. -/
theorem singleAndVectorStreamsAgree : Obligations.SingleAndVectorStreamsAgree := fun cfg seed sub off m => by
  refine ⟨scalarResponses seed sub off { cfg with variant := .single } (4 * m),
    vectorResponses seed sub off { cfg with variant := .vector } m,
    runResult_of_completes (State.completes_init_nexts seed sub off rfl (4 * m)),
    runResult_of_completes (State.completes_init_nextv seed sub off rfl m), by simp [scalarResponses],
    by simp [vectorResponses], ?_⟩
  rw [map_scalarOfResponse, flatMap_lanesOfResponse, map_streamScalar_eq_flatMap]
  simp only [streamVector_variant]

/-! ### Skip equivalence (R95) -/

/-- The stream that starts at an offset is the stream from offset 0 on, that many vectors later. -/
theorem State.atVector_offset (s : State) (seed sub n : DWord) :
    s.atVector seed sub n 0 = s.atVector seed sub 0 n.toNat := by
  have hctr : counterAfter (initctr sub n) 0 = counterAfter (initctr sub 0) n.toNat := by
    apply eq_of_val128_toNat
    simp only [counterAfter_initctr_toNat, BitVec.ofNat_eq_ofNat, BitVec.toNat_ofNat]
    omega
  simp only [State.atVector, streamVector, hctr]

/-- Settles O47: all four ways lead to vector `n` of the stream from offset 0, at its lane 0. -/
theorem skipEquivalence : Obligations.SkipEquivalence := fun s seed sub n => by
  have hinit := exec_init_atVector seed sub 0 s
  have hdirect := exec_init_atVector seed sub n s
  rw [State.atVector_offset] at hdirect
  refine ⟨_, (State.completes_of_exec hdirect).run rfl, ?_, ?_, fun hv => ?_, fun hv => ?_⟩
  · have hsteps := State.completes_replicate (f := fun k => s.clearPos.atVector seed sub 0 k)
      (fun k => exec_skip_atVector seed sub 0 s.clearPos k 1) n.toNat
    exact ⟨_, (hsteps.cons hinit).run (by simp), rfl, rfl, rfl, rfl⟩
  · have hskip := State.completes_of_exec (exec_skip_atVector seed sub 0 s.clearPos 0 n)
    rw [Nat.zero_add] at hskip
    exact ⟨_, (hskip.cons hinit).run rfl, rfl, rfl, rfl, rfl⟩
  · rw [State.clearPos_of_vector hv]
    exact ⟨_, (State.completes_init_nextv seed sub 0 hv n.toNat).run (by simp), rfl, rfl, rfl, rfl⟩
  · have hvec : 4 * n.toNat / 4 = n.toNat := by omega
    have hlane : BitVec.ofNat 2 (4 * n.toNat) = 0 := BitVec.eq_of_toNat_eq (by simp)
    have hruns := State.completes_init_nexts seed sub 0 hv (4 * n.toNat)
    rw [State.atScalar, hvec, hlane] at hruns
    rw [State.clearPos, if_pos hv]
    exact ⟨_, hruns.run (by simp), rfl, rfl, rfl, rfl⟩

end Sys2Proof.Machine
end

section
/-! SUPPORT. The stateless commands (spec/44_stateless_commands.md R100 to R105): `GENV` responds a vector of the stream of its
arguments and `GENS` a scalar of it, so that they agree with the stateful commands; and `philox` reads nothing of an instance
but its parameters. -/

namespace Sys2Proof.Machine

/-! ### `PERM` (R100) -/

/-- Both products of the zero counter are zero, and the key alone is left (R70, R100). -/
theorem round_zeroCounter (cfg : Config) (k : Lanes2) : round cfg ⟨0, 0, 0, 0⟩ k = ⟨k.l0, 0, k.l1, 0⟩ := by
  simp only [round, mulhilo_zero_left]
  simp

/-- Settles O24. -/
theorem permRespondsThePermutation : Obligations.PermRespondsThePermutation := by
  refine ⟨fun v a b c => ?_, fun c k s => ⟨_, rfl, exec_perm c k s⟩, fun cfg k hone => ?_,
    fun cfg k c c' h0 h1 hne heq => hne ((philox_bijective h0 h1 k).injective heq)⟩
  · rw [decode_packFields, decodeFields_perm v rfl rfl]
    rfl
  · rw [philox_of_one_round hone, round_zeroCounter]

/-! ### The indexed forms and the stream of their arguments (R101, R102) -/

theorem vectorOfIndex_toNat (i : DWord) : (vectorOfIndex i).toNat = i.toNat / 4 := by
  rw [vectorOfIndex, BitVec.toNat_ushiftRight, Nat.shiftRight_eq_div_pow]

theorem laneOfIndex_eq_ofNat (i : DWord) : laneOfIndex i = BitVec.ofNat 2 i.toNat := by
  apply BitVec.eq_of_toNat_eq
  simp [laneOfIndex, BitVec.extractLsb'_toNat]

/-- An index displaces the counter by that many vectors (R101). -/
theorem generatedBatch_eq_streamVector (cfg : Config) (seed sub off j : DWord) :
    generatedBatch cfg seed sub off j = streamVector cfg seed sub off j.toNat := by
  rw [generatedBatch, skip_eq_counterAfter, streamVector]

/-- `GENV` responds vector `j` of the stream (R101). -/
theorem exec_genv_streamVector (seed sub off j : DWord) (s : State) :
    exec (.genv seed sub off j) s = .next (s.respond (batchResponse (streamVector s.cfg seed sub off j.toNat))) := by
  rw [exec_genv, generatedBatch_eq_streamVector, State.respondBatch]

/-- `GENS` responds scalar `i` of the flattened stream (R102). -/
theorem exec_gens_streamScalar (seed sub off i : DWord) (s : State) :
    exec (.gens seed sub off i) s = .next (s.respond (laneResponse (streamScalar s.cfg seed sub off i.toNat))) := by
  rw [exec_gens, generatedBatch_eq_streamVector, vectorOfIndex_toNat, laneOfIndex_eq_ofNat, State.respondLane, streamScalar]

/-- Vector `n` of a stream is the batch of the counter whose number is the exact sum modulo `2^128` (R101). -/
theorem streamVector_of_toNat {sub off : DWord} {n : Nat} {c : Lanes4}
    (hc : (val128 c).toNat = (sub.toNat * 2 ^ 64 + off.toNat + n) % 2 ^ 128) (cfg : Config) (seed : DWord) :
    streamVector cfg seed sub off n = philox cfg c (initkey seed) := by
  have hctr : counterAfter (initctr sub off) n = c := by
    apply eq_of_val128_toNat
    rw [counterAfter_initctr_toNat, hc, Nat.add_comm off.toNat]
  rw [streamVector, hctr]

/-- Two streams of one seed and subsequence meet where offset and vector number have the same sum (R101). -/
theorem streamVector_eq_of_sum_eq {off off' : DWord} {n n' : Nat} (h : off.toNat + n = off'.toNat + n') (cfg : Config)
    (seed sub : DWord) : streamVector cfg seed sub off n = streamVector cfg seed sub off' n' :=
  streamVector_of_toNat (by rw [counterAfter_initctr_toNat]; omega) cfg seed

/-- Settles O25: the exchange and the addition keep the sum of offset and index. -/
theorem genvRespondsTheIndexedVector : Obligations.GenvRespondsTheIndexedVector := by
  refine ⟨fun v seed sub off j => ?_, fun seed sub off j s c hc => ⟨_, rfl, ?_⟩,
    fun seed sub off j s => ⟨?_, fun hsum => ?_⟩⟩
  · rw [decode_packFields, decodeFields_genv v rfl]
  · rw [exec_genv_streamVector, streamVector_of_toNat hc]
    rfl
  · rw [exec_genv_streamVector, exec_genv_streamVector, streamVector_eq_of_sum_eq (Nat.add_comm _ _)]
  · have hoff : off.toNat + j.toNat = (off + j).toNat + (0 : DWord).toNat := (BitVec.toNat_add_of_lt hsum).symm
    rw [exec_genv_streamVector, exec_genv_streamVector, streamVector_eq_of_sum_eq hoff]

/-- Settles O26. -/
theorem gensRespondsTheIndexedScalar : Obligations.GensRespondsTheIndexedScalar := by
  refine ⟨fun v seed sub off i => ?_, fun seed sub off i s c x hc hx =>
    ⟨laneResponse (laneAt x (BitVec.ofNat 2 i.toNat)), ?_, laneResponse_above _, ?_⟩⟩
  · rw [decode_packFields, decodeFields_gens v rfl]
  · obtain ⟨hlow, -⟩ := laneResponse_lanes (laneAt x (BitVec.ofNat 2 i.toNat))
    rw [hlow, ← lanesInOrder_getElem?, BitVec.toNat_ofNat]
    rfl
  · rw [exec_gens_streamScalar, streamScalar, streamVector_of_toNat hc, hx]
    rfl

/-! ### Statelessness (R103, R105) -/

/-- `philox` reads the round count and the four constants of a configuration, and not its variant (R76, R103). -/
theorem philox_eq_of_parameters {cfg cfg' : Config} (hr : cfg'.rounds = cfg.rounds) (hm0 : cfg'.mult0 = cfg.mult0)
    (hm1 : cfg'.mult1 = cfg.mult1) (hw0 : cfg'.weyl0 = cfg.weyl0) (hw1 : cfg'.weyl1 = cfg.weyl1) :
    philox cfg' = philox cfg := by
  have hcfg : cfg' = { cfg with variant := cfg'.variant } := by
    rw [← hr, ← hm0, ← hm1, ← hw0, ← hw1]
  funext c k
  rw [hcfg]
  exact bumpedRounds_variant cfg _ _ _ _

/-- Settles O27: each of the three responds `philox` of its operands, or a lane of it. -/
theorem statelessCommandsTouchNoState : Obligations.StatelessCommandsTouchNoState := by
  rintro cfg i (⟨c, k, rfl⟩ | ⟨seed, sub, off, j, rfl⟩ | ⟨seed, sub, off, j, rfl⟩)
  · refine ⟨batchResponse (philox cfg c k), fun s hr hm0 hm1 hw0 hw1 => ?_⟩
    rw [exec_perm, philox_eq_of_parameters hr hm0 hm1 hw0 hw1]
    rfl
  · refine ⟨batchResponse (streamVector cfg seed sub off j.toNat), fun s hr hm0 hm1 hw0 hw1 => ?_⟩
    rw [exec_genv_streamVector, streamVector, philox_eq_of_parameters hr hm0 hm1 hw0 hw1]
    rfl
  · refine ⟨laneResponse (streamScalar cfg seed sub off j.toNat), fun s hr hm0 hm1 hw0 hw1 => ?_⟩
    rw [exec_gens_streamScalar, streamScalar, streamVector, philox_eq_of_parameters hr hm0 hm1 hw0 hw1]
    rfl

/-! ### Agreement with the stateful commands (R104) -/

/-- The run of one command that places one response (R127). -/
theorem runResult_of_respond {cfg : Config} {i : Instr} {r : ResponseWord}
    (h : exec i (State.resetWith cfg) = .next ((State.resetWith cfg).respond r)) : runResult cfg [encode i] = some [r] :=
  runResult_of_completes (State.completes_of_exec h)

theorem runResult_genv (cfg : Config) (seed sub off j : DWord) :
    runResult cfg [encode (.genv seed sub off j)] = some [batchResponse (streamVector cfg seed sub off j.toNat)] :=
  runResult_of_respond (exec_genv_streamVector seed sub off j _)

/-- Settles O48: each response is that vector, or that scalar, of one stream. -/
theorem statelessAgreesWithStateful : Obligations.StatelessAgreesWithStateful := fun cfg seed sub off j => by
  refine ⟨fun hv => ⟨vectorResponses seed sub off cfg (j.toNat + 1), _,
      runResult_of_completes (State.completes_init_nextv seed sub off hv (j.toNat + 1)), ?_,
      runResult_genv cfg seed sub off j⟩,
    ⟨_, runResult_genv cfg seed sub off j, runResult_of_respond (exec_perm _ _ _)⟩,
    fun hv => ⟨scalarResponses seed sub off cfg (j.toNat + 1), _,
      runResult_of_completes (State.completes_init_nexts seed sub off hv (j.toNat + 1)), ?_,
      runResult_of_respond (exec_gens_streamScalar seed sub off j _)⟩⟩
  · simp [vectorResponses]
  · simp [scalarResponses]

end Sys2Proof.Machine
end

section
/-! SUPPORT. Refusals (spec/60_exceptions.md R110): everything a step can do when it refuses, and what a refusal does to the run. -/

namespace Sys2Proof.Machine

/-- The commands that need the registers are the three of R97. -/
theorem needsInited_iff {i : Instr} : needsInited i = true ↔ i = .nextv ∨ i = .nexts ∨ ∃ off, i = .skip off := by
  cases i <;> simp [needsInited]

/-- There are no faults (R106): an outcome is a next state or a refusal. -/
theorem exists_next_or_refused (o : Host.Outcome State Fault Refusal) : (∃ t, o = .next t) ∨ ∃ r, o = .refused r := by
  cases o with
  | next t => exact .inl ⟨t, rfl⟩
  | fault f => exact nomatch f
  | refused r => exact .inr ⟨r, rfl⟩

/-- Everything a step can do when it refuses: the oldest input is a reserved word (R51), or the word of a command that needs
the registers of an engine that is not initialised (R97). -/
theorem step_refused_cases {s : State} {r : Refusal} (h : step s = .refused r) :
    ∃ w later, s.inputs = .word w :: later ∧
      ((∃ e, decode s.cfg.variant w = .error e ∧ r = .reserved e) ∨
        ∃ i, decode s.cfg.variant w = .ok i ∧ needsInited i = true ∧ s.inited = false ∧ r = .notInitialised) := by
  cases hin : s.inputs with
  | nil =>
    rw [step_waiting hin] at h
    cases h
  | cons e later =>
    cases e with
    | reset =>
      rw [step_reset hin] at h
      cases h
    | word w =>
      refine ⟨w, later, rfl, ?_⟩
      cases hd : decode s.cfg.variant w with
      | error e =>
        rw [step_reserved hin hd] at h
        cases h
        exact .inl ⟨e, rfl, rfl⟩
      | ok i =>
        rw [step_command hin hd] at h
        obtain ⟨hwf, -⟩ | ⟨-, hn, hi, hr⟩ := exec_refused_cases h
        · exact absurd (wellFormed_of_decode hd) (by simp [hwf])
        · exact .inr ⟨i, rfl, hn, hi, hr⟩

/-- A step on the word of a command that needs the registers, while they hold no value (R97). -/
theorem step_notInitialised {s : State} {w : CommandWord} {later : List HostEvent} {i : Instr}
    (hin : s.inputs = .word w :: later) (hd : decode s.cfg.variant w = .ok i) (hn : needsInited i = true)
    (hi : s.inited = false) : step s = .refused .notInitialised := by
  rw [step_command hin hd]
  exact exec_notInitialised (wellFormed_of_decode hd) hn hi

/-- A step is refused in the two situations of R110 and in no other. -/
theorem exists_step_refused_iff {s : State} :
    (∃ r, step s = .refused r) ↔ ∃ w later, s.inputs = .word w :: later ∧
      ((∃ e, decode s.cfg.variant w = .error e) ∨
        (s.inited = false ∧ ∃ i, decode s.cfg.variant w = .ok i ∧ needsInited i = true)) := by
  constructor
  · rintro ⟨r, h⟩
    obtain ⟨w, later, hin, ⟨e, hd, -⟩ | ⟨i, hd, hn, hi, -⟩⟩ := step_refused_cases h
    · exact ⟨w, later, hin, .inl ⟨e, hd⟩⟩
    · exact ⟨w, later, hin, .inr ⟨hi, i, hd, hn⟩⟩
  · rintro ⟨w, later, hin, ⟨e, hd⟩ | ⟨hi, i, hd, hn⟩⟩
    · exact ⟨_, step_reserved hin hd⟩
    · exact ⟨_, step_notInitialised hin hd hn hi⟩

/-- A refusal is kept for the whole run: no more steps change it (R110). -/
theorem runSteps_refused_add {j : Nat} {s : State} {r : Refusal} (h : Host.Core.run Sys2Proof.core j s = .refused r)
    (k : Nat) : Host.Core.run Sys2Proof.core (j + k) s = .refused r := by
  induction j generalizing s with
  | zero => cases h
  | succ j ih =>
    rw [Nat.add_right_comm]
    obtain ⟨t, ht⟩ | ⟨r', hr'⟩ := exists_next_or_refused (step s)
    · rw [runSteps_next ht] at h ⊢
      exact ih h
    · rw [runSteps_refused hr'] at h ⊢
      exact h

/-- Settles O35: the second clause is `exists_step_refused_iff`, with the commands of R97 written out. -/
theorem onlyTwoSituationsAreRefused : Obligations.OnlyTwoSituationsAreRefused := fun s => by
  refine ⟨fun f => (nomatch f), ?_, (exists_next_or_refused (step s)).resolve_right, fun r j k h => runSteps_refused_add h k⟩
  simp only [exists_step_refused_iff, needsInited_iff]

end Sys2Proof.Machine
end

section
/-! SUPPORT. The build-time check of a parameter set (spec/60_exceptions.md R107). -/

namespace Sys2Proof

/-- What builds is a parameter set of this hardware, as it is (R5, R6, R7). -/
theorem Config.build_eq_some_iff {n w r : Nat} {m0 m1 w0 w1 : Word} {v : Variant} {cfg : Config} :
    Config.build n w r m0 m1 w0 w1 v = some cfg ↔
      (n = 4 ∧ w = 32 ∧ 0 < r) ∧ cfg = ⟨v, r, m0, m1, w0, w1⟩ := by
  rw [Config.build, Option.ite_none_right_eq_some, Option.some_inj, eq_comm (a := cfg)]
  rfl

theorem Config.build_eq_none_iff {n w r : Nat} {m0 m1 w0 w1 : Word} {v : Variant} :
    Config.build n w r m0 m1 w0 w1 v = none ↔ ¬ (n = 4 ∧ w = 32 ∧ 0 < r) := by
  rw [Config.build, ite_eq_right_iff, imp_iff_not (Option.some_ne_none _)]
  rfl

/-- The source's checks, one by one (R107). -/
theorem Config.sourceAdmits_iff {n w r : Nat} :
    Config.sourceAdmits n w r = true ↔ n % 2 = 0 ∧ 2 ≤ n ∧ n ≤ 16 ∧ w % 8 = 0 ∧ w = 32 ∧ 0 < r := by
  simp [Config.sourceAdmits, and_assoc]

/-- Settles O52: by what builds, what does not, and the source's checks. -/
theorem badParameterSetsDoNotBuild : Obligations.BadParameterSetsDoNotBuild := by
  refine fun n w r m0 m1 w0 w1 v => ⟨fun cfg h => ?_, fun hn hw hr => ⟨_, Config.build_eq_some_iff.mpr ⟨⟨hn, hw, hr⟩, rfl⟩⟩,
    fun hbad => Config.build_eq_none_iff.mpr (by omega), Config.sourceAdmits_iff⟩
  obtain ⟨⟨hn, hw, hr⟩, rfl⟩ := Config.build_eq_some_iff.mp h
  have hwf : Config.wf ⟨v, r, m0, m1, w0, w1⟩ = true := decide_eq_true hr
  exact ⟨hn, hw, hwf, rfl, rfl, rfl, rfl, rfl, rfl, Config.sourceAdmits_iff.mpr (by omega)⟩

end Sys2Proof
end

section
/-! SUPPORT. Reset and the host's duties (spec/70_reset_and_hazards.md R122 to R129, R137, R138): what the host presents is dutiful, a
step completes its oldest input and keeps it so, and what the channel will hold in the end stays the same. -/

namespace Sys2Proof.Machine

/-- Settles O32: a step waits where nothing is presented, and the reset input leaves `State.afterReset`. -/
theorem waitingAndTheResetInput : Obligations.WaitingAndTheResetInput :=
  ⟨fun _ hin => step_waiting hin, fun _ _ hin => ⟨_, step_reset hin, rfl, rfl, rfl, rfl⟩⟩

/-- The duties at one word: it is not reserved (R129), and its command does not need registers that hold no value (R125). -/
theorem hostKeepsDuties_word_iff {v : Variant} {inited : Bool} {w : CommandWord} {later : List HostEvent} :
    hostKeepsDuties v inited (.word w :: later) = true ↔ ∃ i, decode v w = .ok i ∧
      (needsInited i = true → inited = true) ∧ hostKeepsDuties v (inited || setsInited i) later = true := by
  cases hd : decode v w with
  | error e => simp [hostKeepsDuties, hd]
  | ok i => cases inited <;> simp [hostKeepsDuties, hd]

theorem owedResponses_word {v : Variant} {w : CommandWord} {i : Instr} (hd : decode v w = .ok i) (n : Nat)
    (later : List HostEvent) : owedResponses v n (.word w :: later) = owedResponses v (n + owedBy i) later := by
  simp [owedResponses, hd]

/-- A command that the variant accepts completes where the registers it needs hold values (R97, R137). -/
theorem exists_exec_next {i : Instr} {s : State} (hwf : i.wellFormed s.cfg.variant = true)
    (hi : needsInited i = true → s.inited = true) : ∃ t, exec i s = .next t := by
  refine (exists_next_or_refused (exec i s)).resolve_right fun ⟨r, hr⟩ => ?_
  obtain ⟨hnot, -⟩ | ⟨-, hneeds, hnot, -⟩ := exec_refused_cases hr
  · simp [hwf] at hnot
  · simp [hi hneeds] at hnot

/-- The host keeps its duties over what the instance has still to take. -/
def State.dutiful (s : State) : Prop := hostKeepsDuties s.cfg.variant s.inited s.inputs = true

/-- How many responses will stand on the channel once all that is presented has completed. -/
def State.owed (s : State) : Nat := owedResponses s.cfg.variant s.responses.length s.inputs

/-- Under a dutiful host a step completes the oldest input, and what is owed in the end does not change. -/
theorem step_dutiful {s : State} (h : s.dutiful) :
    ∃ t, step s = .next t ∧ t.inputs = s.inputs.tail ∧ t.dutiful ∧ t.owed = s.owed := by
  rw [State.dutiful] at h
  cases hin : s.inputs with
  | nil => exact ⟨s, step_waiting hin, hin, h, rfl⟩
  | cons e later =>
    rw [hin] at h
    cases e with
    | reset => exact ⟨s.afterReset later, step_reset hin, rfl, h, by rw [State.owed, State.owed, hin]; rfl⟩
    | word w =>
      obtain ⟨i, hd, hi, hlater⟩ := hostKeepsDuties_word_iff.mp h
      obtain ⟨t, ht⟩ := exists_exec_next (s := { s with inputs := later }) (wellFormed_of_decode hd) hi
      obtain ⟨hcfg, hinputs, hinited⟩ := exec_keeps_cfg_inputs_inited ht
      obtain ⟨l, hresponses, hl⟩ := exec_responses ht
      refine ⟨t, (step_command hin hd).trans ht, hinputs, ?_, ?_⟩
      · rw [State.dutiful, hcfg, hinputs, hinited]
        exact hlater
      · rw [State.owed, State.owed, hin, owedResponses_word hd, hcfg, hinputs, hresponses, List.length_append, hl]

/-- One step an input, all of them complete. -/
theorem runSteps_dutiful {n : Nat} {s : State} (h : s.dutiful) (hn : s.inputs.length = n) :
    ∃ t : State, Host.Core.run Sys2Proof.core n s = .next t ∧ t.inputs = [] ∧ t.owed = s.owed := by
  induction n generalizing s with
  | zero => exact ⟨s, rfl, List.eq_nil_of_length_eq_zero hn, rfl⟩
  | succ n ih =>
    obtain ⟨u, hu, hinputs, hdutiful, howed⟩ := step_dutiful h
    obtain ⟨t, ht, hnil, howed'⟩ := ih hdutiful (by rw [hinputs, List.length_tail, hn, Nat.add_sub_cancel])
    exact ⟨t, (runSteps_next hu n).trans ht, hnil, howed'.trans howed⟩

/-- Settles O42: once nothing is presented any more, what is owed stands on the channel. -/
theorem dutifulHostsRunsComplete : Obligations.DutifulHostsRunsComplete := fun s h => by
  obtain ⟨t, ht, hnil, howed⟩ := runSteps_dutiful (s := s) h rfl
  rw [State.owed, hnil] at howed
  exact ⟨t, ht, hnil, howed⟩

end Sys2Proof.Machine
end

section
/-! SUPPORT. The borders of a stream (spec/70_reset_and_hazards.md R130 to R132): the segment of a subsequence, where a stream leaves
it, and the end of the counter space. -/

namespace Sys2Proof.Machine

/-- Inside the segment no carry leaves lane 1, so lanes 3:2 hold the subsequence (R130). -/
theorem high_lanes_of_inSegment {off : DWord} {j : Nat} (h : inSegment off j) (sub : DWord) :
    (counterAfter (initctr sub off) j).l2 = lo32 sub ∧ (counterAfter (initctr sub off) j).l3 = hi32 sub := by
  have hlow : (lo32 off).toNat + (hi32 off).toNat * 2 ^ 32 + j < 2 ^ 64 := by
    rw [Nat.add_comm (lo32 off).toNat, halves_toNat]
    exact h
  rw [initctr_eq_halves]
  exact high_lanes_of_no_carry hlow (counterAfter_toNat _ j)

/-- At the end of the segment the carry enters lane 2: the first counter of the next subsequence, modulo `2^64` (R130). -/
theorem counterAfter_initctr_of_segment_end {off : DWord} {j : Nat} (h : off.toNat + j = 2 ^ 64) (sub : DWord) :
    counterAfter (initctr sub off) j = initctr (sub + 1) 0 := by
  apply eq_of_val128_toNat
  have hone : (1 : DWord).toNat = 1 := rfl
  have hzero : (0 : DWord).toNat = 0 := rfl
  rw [counterAfter_initctr_toNat, initctr_toNat, BitVec.toNat_add, hone, hzero]
  omega

/-- Settles O49: from the end of the segment on, both streams count on from the same counter. -/
theorem streamLeavesItsSegment : Obligations.StreamLeavesItsSegment := fun cfg seed sub off j => by
  refine ⟨fun h => high_lanes_of_inSegment h sub, fun h => ⟨?_, fun n => ?_⟩⟩
  · rw [counterAfter_initctr_of_segment_end h, initctr_eq_halves]
    rfl
  · rw [streamVector, ← counterAfter_add, counterAfter_initctr_of_segment_end h, streamVector]

/-- Within their segments, streams that use one counter are of one subsequence: lanes 3:2 hold it (R131 (a)). -/
theorem subsequence_eq_of_counter_eq {sub sub' off off' : DWord} {j j' : Nat} (h : inSegment off j)
    (h' : inSegment off' j') (hctr : counterAfter (initctr sub off) j = counterAfter (initctr sub' off') j') :
    sub = sub' := by
  obtain ⟨hlow, hhigh⟩ := high_lanes_of_inSegment h sub
  obtain ⟨hlow', hhigh'⟩ := high_lanes_of_inSegment h' sub'
  calc sub = join64 (hi32 sub) (lo32 sub) := (join64_halves sub).symm
    _ = join64 (hi32 sub') (lo32 sub') := by rw [← hlow, ← hhigh, hctr, hlow', hhigh']
    _ = sub' := join64_halves sub'

/-- Settles O50: different counters, and so different batches where `philox` is a bijection; streams of one subsequence meet
where offset and vector number have the same sum. -/
theorem streamsOfDifferentSubsequencesAreDisjoint : Obligations.StreamsOfDifferentSubsequencesAreDisjoint := by
  refine ⟨fun cfg seed sub sub' off off' j j' hsub h h' => ?_,
    fun cfg seed sub o1 o2 j ho => streamVector_eq_of_sum_eq (by omega) cfg seed sub⟩
  have hctr : counterAfter (initctr sub off) j ≠ counterAfter (initctr sub' off') j' :=
    fun heq => hsub (subsequence_eq_of_counter_eq h h' heq)
  exact ⟨hctr, fun h0 h1 hbatch => hctr ((philox_bijective h0 h1 (initkey seed)).injective hbatch)⟩

/-- The last counter of the space is followed by the first (R132). -/
theorem inc_allOnes : inc ⟨0xFFFFFFFF#32, 0xFFFFFFFF#32, 0xFFFFFFFF#32, 0xFFFFFFFF#32⟩ = ⟨0, 0, 0, 0⟩ := by
  obtain ⟨-, -, -, hwrap, -⟩ := counterMovesAreBijectionsThatWrap
  exact hwrap

/-- An advance at the last counter buffers the batch of the zero counter (R132). -/
theorem State.advance_of_allOnes {s : State} (h : s.ctr = ⟨0xFFFFFFFF#32, 0xFFFFFFFF#32, 0xFFFFFFFF#32, 0xFFFFFFFF#32⟩) :
    s.advance.ctr = ⟨0, 0, 0, 0⟩ ∧ s.advance.buf = philox s.cfg ⟨0, 0, 0, 0⟩ s.key := by
  rw [State.advance_ctr, State.advance_buf, h, inc_allOnes]
  exact ⟨rfl, rfl⟩

/-- Settles O51: `NEXTV`, and `NEXTS` at lane 3, are the advance as far as `CTR` and `BUF` go. -/
theorem counterWrapsToZero : Obligations.CounterWrapsToZero := fun s hi hctr => by
  obtain ⟨hzero, hbatch⟩ := State.advance_of_allOnes hctr
  refine ⟨fun hv => ⟨_, exec_nextv hv hi, ?_, ?_⟩, fun hv hp => ⟨_, exec_nexts_wrap hv hi hp, ?_, ?_⟩⟩
  · rw [State.respondBatch_ctr, hzero]
  · rw [State.respondBatch_buf, hbatch]
  · rw [State.respondLane_ctr, State.setPos_ctr, hzero]
  · rw [State.respondLane_buf, State.setPos_buf, hbatch]

end Sys2Proof.Machine
end
